-- ==== Sys2Proof/Word.lean ====
section
/-! DEFINITION. The bit-vector widths of the HHGP codec block (spec/00_scope.md R14: every value is
unsigned, bit 0 is the least significant). -/

namespace Sys2Proof

/-- One bit of a register or of a frame header. -/
abbrev Bit := BitVec 1

/-- One byte of a buffer, of a frame or of a command field. -/
abbrev Byte := BitVec 8

/-- A 16-bit value: a checksum, a length register. -/
abbrev Half := BitVec 16

/-- A 32-bit register or command word. -/
abbrev Word := BitVec 32

end Sys2Proof
end

