-- ==== Sys2Proof/Config.lean ====
section
/-! DEFINITION. The configuration of one block: the parameters of spec/00_scope.md R6 to R10, which are
no state of the block (R13) and never change. -/

namespace Sys2Proof

/-- CRC_PARAMS of spec/00_scope.md R10: which CRC-16 the block computes. -/
structure CrcParams where
  poly : Half
  init : Half
  refin : Bool
  refout : Bool
  xorout : Half
deriving DecidableEq, Repr

/-- CRC-16/CCITT-FALSE, the default of spec/00_scope.md R10. PRESUMED: the spec itself takes it from
general knowledge (log entry 9). -/
def CrcParams.ccittFalse : CrcParams :=
  { poly := 0x1021#16, init := 0xFFFF#16, refin := false, refout := false, xorout := 0x0000#16 }

/-- The parameters of one block (spec/00_scope.md R6 to R10): `maxPayload` is M, `maxFragments` is F,
`inSize` is IN_SIZE, `crc` is CRC_PARAMS. -/
structure Config where
  maxPayload : Nat
  maxFragments : Nat
  inSize : Nat
  crc : CrcParams
deriving DecidableEq, Repr

namespace Config

/-- OUT_SIZE = F*(M+5) + 5 (spec/00_scope.md R9). -/
def outSize (c : Config) : Nat := c.maxFragments * (c.maxPayload + 5) + 5

/-- DEC_SIZE = M (spec/00_scope.md R9). -/
def decSize (c : Config) : Nat := c.maxPayload

/-- REASM_SIZE = F*M (spec/00_scope.md R9). -/
def reasmSize (c : Config) : Nat := c.maxFragments * c.maxPayload

/-- The reference configuration REF of spec/00_scope.md R6 to R10. -/
def reference : Config :=
  { maxPayload := 250, maxFragments := 8, inSize := 2048, crc := CrcParams.ccittFalse }

/-- The small test configuration SMALL of spec/00_scope.md R11. -/
def small : Config :=
  { maxPayload := 4, maxFragments := 3, inSize := 16, crc := CrcParams.ccittFalse }

end Config

end Sys2Proof
end

