-- ==== Sys2Proof/Syntax.lean ====
section
/-! DEFINITION. The commands of the block: one constructor per row of spec/opcode_table.json, with the
operand fields that the row's rule uses (spec/30_encoding.md R52, R53). A word that selects no row is no
`Instr`; its effect (IllegalCommand, spec/44_control.md R115) is given where a command word is run. -/

namespace Sys2Proof

/-- A command of the block. Operands are the fields of spec/30_encoding.md R52: IMM8 is a byte, IDX a
frame index (a number 0..255, checked by `Instr.wf`), TAG a 3-bit code, ACK and PART single bits. -/
inductive Instr where
  /-- NOP (spec/44_control.md R114). -/
  | nop
  /-- CRC.CLEAR (spec/40_crc.md R74). -/
  | crcClear
  /-- CRC.UPDATE b, b = IMM8 (spec/40_crc.md R75). -/
  | crcUpdate (data : Byte)
  /-- CRC.BUF (spec/40_crc.md R76). -/
  | crcBuf
  /-- ENC tag[, ACK][, PARTIAL] (spec/41_encoder.md R83). -/
  | enc (tag : BitVec 3) (ack : Bool) (part : Bool)
  /-- REWRITE.ID k, id: k = IDX, id = IMM8 (spec/41_encoder.md R85). -/
  | rewriteId (idx : Nat) (id : Byte)
  /-- REWRITE.ALL id, id = IMM8 (spec/41_encoder.md R86). -/
  | rewriteAll (id : Byte)
  /-- DEC (spec/42_decoder.md R90). -/
  | dec
  /-- REASM.RESET (spec/43_reassembly.md R104). -/
  | reasmReset
  /-- REASM.ACCEPT (spec/43_reassembly.md R105). -/
  | reasmAccept
deriving DecidableEq, Repr

end Sys2Proof
end

