-- ==== Sys2Proof/WellFormed.lean ====
section
/-! DEFINITION. What makes a command and a configuration well formed: the range of the frame index
(spec/30_encoding.md R53) and the constraints on the parameters (spec/00_scope.md R6 to R11). -/

namespace Sys2Proof

/-- IDX is a frame index 0..255 (spec/30_encoding.md R53); every other operand has exactly the width of
its field. -/
def Instr.wf : Instr → Bool
  | .nop => true
  | .crcClear => true
  | .crcUpdate _ => true
  | .crcBuf => true
  | .enc _ _ _ => true
  | .rewriteId idx _ => decide (idx < 256)
  | .rewriteAll _ => true
  | .dec => true
  | .reasmReset => true
  | .reasmAccept => true

namespace Config

/-- 1 <= M <= 254 (spec/00_scope.md R6). -/
def payloadOk (c : Config) : Bool := decide (1 ≤ c.maxPayload) && decide (c.maxPayload ≤ 254)

/-- 1 <= F <= 254 (spec/00_scope.md R7). -/
def fragmentsOk (c : Config) : Bool := decide (1 ≤ c.maxFragments) && decide (c.maxFragments ≤ 254)

/-- IN_SIZE >= F*M + 1: a payload one byte too long to fragment fits (spec/00_scope.md R8). -/
def inSizeHoldsOverlong (c : Config) : Bool :=
  decide (c.maxFragments * c.maxPayload + 1 ≤ c.inSize)

/-- IN_SIZE >= M + 5: every legal frame fits (spec/00_scope.md R8). -/
def inSizeHoldsFrame (c : Config) : Bool := decide (c.maxPayload + 5 ≤ c.inSize)

/-- IN_SIZE <= 65535: LEN can address it (spec/00_scope.md R8). -/
def inSizeAddressable (c : Config) : Bool := decide (c.inSize ≤ 65535)

/-- OUT_SIZE <= 65535 (spec/00_scope.md R9). -/
def outSizeAddressable (c : Config) : Bool := decide (c.outSize ≤ 65535)

/-- A configuration is legal only if every constraint holds (spec/00_scope.md R11); CRC_PARAMS may be
any CRC-16. -/
def legal (c : Config) : Bool :=
  c.payloadOk && c.fragmentsOk && c.inSizeHoldsOverlong && c.inSizeHoldsFrame && c.inSizeAddressable
    && c.outSizeAddressable

end Config

end Sys2Proof
end

