-- ==== Sys2Proof/Decode.lean ====
section
/-! DEFINITION. The decoder of command words (spec/30_encoding.md R54 to R57), total on every 32-bit
word, and the encoder written from the same table (R52, R68). -/

namespace Sys2Proof

/-- Why a word selects no command (spec/30_encoding.md R54, R56). -/
inductive DecodeReject where
  /-- RSV = w[31:29] is not 0. -/
  | reservedBits
  /-- OP = w[7:0] is a reserved opcode value. -/
  | reservedOpcode
deriving DecidableEq, Repr

/-- OP = w[7:0] (spec/30_encoding.md R52). -/
def opField (w : Word) : Byte := w.extractLsb' 0 8

/-- IMM8 = w[15:8]. -/
def imm8Field (w : Word) : Byte := w.extractLsb' 8 8

/-- IDX = w[23:16]. -/
def idxField (w : Word) : Byte := w.extractLsb' 16 8

/-- TAG = w[26:24]. -/
def tagField (w : Word) : BitVec 3 := w.extractLsb' 24 3

/-- ACK = w[27]. -/
def ackField (w : Word) : Bool := w.getLsbD 27

/-- PART = w[28]. -/
def partField (w : Word) : Bool := w.getLsbD 28

/-- RSV = w[31:29]. -/
def rsvField (w : Word) : BitVec 3 := w.extractLsb' 29 3

/-- The command that OP selects, with the fields that command uses; every other OP value is reserved
(spec/30_encoding.md R54, R56). -/
def decodeOp (op : Byte) (w : Word) : Except DecodeReject Instr :=
  if op = 0x00#8 then .ok .nop
  else if op = 0x01#8 then .ok .crcClear
  else if op = 0x02#8 then .ok (.crcUpdate (imm8Field w))
  else if op = 0x03#8 then .ok .crcBuf
  else if op = 0x10#8 then .ok (.enc (tagField w) (ackField w) (partField w))
  else if op = 0x11#8 then .ok (.rewriteId (idxField w).toNat (imm8Field w))
  else if op = 0x12#8 then .ok (.rewriteAll (imm8Field w))
  else if op = 0x20#8 then .ok .dec
  else if op = 0x30#8 then .ok .reasmReset
  else if op = 0x31#8 then .ok .reasmAccept
  else .error .reservedOpcode

/-- Decoding a command word (spec/30_encoding.md R54): RSV first, then OP. A field that the selected
command does not use is ignored. -/
def decode (w : Word) : Except DecodeReject Instr :=
  if rsvField w ≠ 0#3 then .error .reservedBits else decodeOp (opField w) w

/-- A command word from its fields, highest first, RSV = 0 (spec/30_encoding.md R52). -/
def commandWord (part ack : Bool) (tag : BitVec 3) (idx imm8 op : Byte) : Word :=
  0#3 ++ BitVec.ofBool part ++ BitVec.ofBool ack ++ tag ++ idx ++ imm8 ++ op

/-- The word of a command, every unused field 0 (spec/30_encoding.md R68). -/
def encode : Instr → Word
  | .nop => commandWord false false 0#3 0#8 0#8 0x00#8
  | .crcClear => commandWord false false 0#3 0#8 0#8 0x01#8
  | .crcUpdate data => commandWord false false 0#3 0#8 data 0x02#8
  | .crcBuf => commandWord false false 0#3 0#8 0#8 0x03#8
  | .enc tag ack part => commandWord part ack tag 0#8 0#8 0x10#8
  | .rewriteId idx id => commandWord false false 0#3 (BitVec.ofNat 8 idx) id 0x11#8
  | .rewriteAll id => commandWord false false 0#3 0#8 id 0x12#8
  | .dec => commandWord false false 0#3 0#8 0#8 0x20#8
  | .reasmReset => commandWord false false 0#3 0#8 0#8 0x30#8
  | .reasmAccept => commandWord false false 0#3 0#8 0#8 0x31#8

/-- `match` of the command's row in the opcode map (spec/30_encoding.md R55). -/
def rowMatch : Instr → Word
  | .nop => 0x00000000#32
  | .crcClear => 0x00000001#32
  | .crcUpdate _ => 0x00000002#32
  | .crcBuf => 0x00000003#32
  | .enc _ _ _ => 0x00000010#32
  | .rewriteId _ _ => 0x00000011#32
  | .rewriteAll _ => 0x00000012#32
  | .dec => 0x00000020#32
  | .reasmReset => 0x00000030#32
  | .reasmAccept => 0x00000031#32

/-- `mask`, the same for every row (spec/30_encoding.md R55). -/
def rowMask : Word := 0xE00000FF#32

/-- The bits of a word that the command looks at: OP, RSV and the fields of spec/30_encoding.md R52
whose "used by" column names it. -/
def usedMask : Instr → Word
  | .nop => 0xE00000FF#32
  | .crcClear => 0xE00000FF#32
  | .crcUpdate _ => 0xE000FFFF#32
  | .crcBuf => 0xE00000FF#32
  | .enc _ _ _ => 0xFF0000FF#32
  | .rewriteId _ _ => 0xE0FFFFFF#32
  | .rewriteAll _ => 0xE000FFFF#32
  | .dec => 0xE00000FF#32
  | .reasmReset => 0xE00000FF#32
  | .reasmAccept => 0xE00000FF#32

/-- The command word that the `nbits` low bits `w` stand for: a command is one 32-bit word
(spec/30_encoding.md R57), and the bits above `nbits` are 0. -/
def tableWord (nbits w : Nat) : Word := BitVec.ofNat 32 (w % 2 ^ nbits)

/-- What the decoder reads from a word numbered as spec/opcode_table.json numbers it. -/
def decodeTableWord (nbits w : Nat) : Option Instr :=
  match decode (tableWord nbits w) with
  | .ok i => some i
  | .error _ => none

end Sys2Proof
end

