-- ==== Sys2Proof/Machine/State.lean ====
section
/-! DEFINITION. The state of the HHGP codec block (spec/10_state.md R17 to R36) as plain data, the reasons
a step can stop, and the state after reset. -/

namespace Sys2Proof.Machine

/-- The 7-bit flags field of a frame (spec/30_encoding.md R59, R60). -/
abbrev FrameFlags := BitVec 7

/-- STATUS.ERR by name (spec/30_encoding.md R64). Codes 7..15 are reserved and never raised, so they have
no name (log entry 11). -/
inductive ErrCode where
  | ok
  | invalidArgument
  | unsupportedType
  /-- Reserved: never raised by this block (spec/60_exceptions.md R120). -/
  | outOfMemory
  | fragmentLimitExceeded
  | malformedFrame
  | illegalCommand
deriving DecidableEq, Repr

/-- STATUS.REASON by name (spec/30_encoding.md R65). Codes 7..15 are reserved and never raised. -/
inductive FrameReason where
  | none
  | truncated
  | checksumMismatch
  | oversize
  | lengthMismatch
  /-- Reserved: never raised, the version is one bit (spec/42_decoder.md R97). -/
  | invalidVersion
  | invalidFlags
deriving DecidableEq, Repr

/-- REASM_STATUS.STATE by name (spec/30_encoding.md R66). -/
inductive ReasmState where
  | idle
  | collecting
  | complete
  | failed
deriving DecidableEq, Repr

/-- REASM_STATUS.EVENT by name (spec/30_encoding.md R67). Codes 11..15 are reserved and never written. -/
inductive ReasmEvent where
  | none
  | started
  | appended
  | completeSingle
  | completeFin
  | dropped
  | strayFinish
  | ignoredTerminal
  | failTagMismatch
  | failOverflow
  | failProtocol
deriving DecidableEq, Repr

/-- STATUS (spec/10_state.md R21). -/
structure StatusReg where
  err : ErrCode
  reason : FrameReason
deriving DecidableEq, Repr

/-- ENC_RESULT (spec/10_state.md R23). -/
structure EncResultReg where
  frameCount : Byte
  outLen : Half
deriving DecidableEq, Repr

/-- DEC_HDR (spec/10_state.md R24). -/
structure DecHdrReg where
  flags : FrameFlags
  version : Bit
  id : Byte
  length : Byte
  valid : Bool
deriving DecidableEq, Repr

/-- DEC_CRC (spec/10_state.md R25). -/
structure DecCrcReg where
  received : Half
  computed : Half
deriving DecidableEq, Repr

/-- REASM_STATUS (spec/10_state.md R26). -/
structure ReasmReg where
  state : ReasmState
  event : ReasmEvent
  fragCount : Byte
  firstFlags : FrameFlags
deriving DecidableEq, Repr

/-- The contents of one buffer: listed cells in the canonical form `Memory.wf`; an address that is not
listed reads as `Memory.unlisted`. -/
abbrev Memory := List Host.Cell

/-- The four byte buffers, each an address space of its own (spec/10_state.md R31, spec/20_memory.md R37). -/
inductive Buffer where
  | inBuf
  | outBuf
  | decBuf
  | reasmBuf
deriving DecidableEq, Repr

/-- The bytes drawn for the four buffers at a reset, from index 0 (spec/10_state.md R32: "A model draws each
byte freely at reset, under no law"). Bytes beyond a buffer's size are not used, and an index beyond the
list reads as `Memory.unlisted`. -/
structure Drawn where
  inBuf : List Byte
  outBuf : List Byte
  decBuf : List Byte
  reasmBuf : List Byte
deriving DecidableEq, Repr

/-- What the outside does to the block: one of the four host operations of spec/44_control.md R113, or the
reset input of spec/70_reset_and_hazards.md R135. -/
inductive HostEvent where
  /-- `RD off`. A register offset is one of 0x00..0xFF; those that name no register are reserved or misaligned. -/
  | readReg (off : BitVec 8)
  /-- `WR off, v`. -/
  | writeReg (off : BitVec 8) (v : Word)
  /-- A buffer read (space, i). -/
  | readBuf (space : Buffer) (i : Nat)
  /-- A buffer write (space, i, b). -/
  | writeBuf (space : Buffer) (i : Nat) (b : Byte)
  /-- The reset input, with the bytes drawn for the buffers. -/
  | reset (drawn : Drawn)
deriving DecidableEq, Repr

/-- The result of the last host read (the MODEL's own, log entry 4): spec/44_control.md R113 gives a register
read a word and a buffer read a byte. -/
inductive Response where
  | none
  | word (w : Word)
  | byte (b : Byte)
deriving DecidableEq, Repr

/-- The state of the machine. `cfg` is the configuration, no state of the block (log entry 1); `pending` and
`response` are the host's side of the interface (log entries 3 and 4); the rest is spec/10_state.md. -/
structure State where
  /-- The parameters M, F, IN_SIZE and CRC_PARAMS (spec/00_scope.md R6 to R10). No step changes them. -/
  cfg : Config
  /-- CMD.WORD (spec/10_state.md R18). -/
  cmdWord : Word
  /-- LEN.LEN (R19). -/
  len : Half
  /-- CFG.VERSION (R20). -/
  cfgVersion : Bit
  /-- STATUS (R21). -/
  status : StatusReg
  /-- CRC.STATE (R22). -/
  crcState : Half
  /-- ENC_RESULT (R23). -/
  encResult : EncResultReg
  /-- DEC_HDR (R24). -/
  decHdr : DecHdrReg
  /-- DEC_CRC (R25). -/
  decCrc : DecCrcReg
  /-- REASM_STATUS (R26). -/
  reasm : ReasmReg
  /-- REASM_LEN.ACC_LEN (R27). -/
  accLen : Half
  /-- IN_BUF (R31). -/
  inBuf : Memory
  /-- OUT_BUF (R31). -/
  outBuf : Memory
  /-- DEC_BUF (R31). -/
  decBuf : Memory
  /-- REASM_BUF (R31). -/
  reasmBuf : Memory
  /-- The host operations and resets still to come, oldest first. -/
  pending : List HostEvent
  /-- The result of the last host read. -/
  response : Response
deriving DecidableEq, Repr

/-- The block has no fault: "No host operation faults or hangs" (spec/44_control.md R113), and an error is a
code in STATUS (spec/60_exceptions.md R116, R126). So there is no reason to stop with a fault. -/
inductive Fault where
deriving DecidableEq, Repr

/-- Why a step gives no meaning. -/
inductive Refusal where
  /-- Raised by `exec` for a command that has no meaning in this model yet; safe. No arm raises it now. -/
  | notModelled (mnemonic : String)
  /-- Raised by `step` when the configuration breaks a constraint of spec/00_scope.md R6 to R10: "A model refuses
  an illegal configuration rather than giving it a meaning" (R11); safe. -/
  | illegalConfiguration
deriving DecidableEq, Repr

/-- What a command or a host operation answers. -/
abbrev Result := Host.Outcome State Fault Refusal

/-- The state after reset of a block with configuration `c` (spec/10_state.md R36), with no host operation
waiting. The buffer bytes are unspecified (R32); this one draws 0x00 for each, DESIGN CHOICE (log entry 7).
Every other draw is reached by the reset event (`applyReset`). -/
def State.resetOf (c : Config) : State :=
  { cfg := c
    cmdWord := 0#32
    len := 0#16
    cfgVersion := 0#1
    status := { err := .ok, reason := .none }
    crcState := c.crc.init
    encResult := { frameCount := 0#8, outLen := 0#16 }
    decHdr := { flags := 0#7, version := 0#1, id := 0#8, length := 0#8, valid := false }
    decCrc := { received := 0#16, computed := 0#16 }
    reasm := { state := .idle, event := .none, fragCount := 0#8, firstFlags := 0#7 }
    accLen := 0#16
    inBuf := []
    outBuf := []
    decBuf := []
    reasmBuf := []
    pending := []
    response := .none }

/-- The machine right after reset, in the reference configuration (spec/00_scope.md R6 to R10; log entry 1). -/
def State.reset : State := State.resetOf Config.reference

end Sys2Proof.Machine
end

