-- ==== Sys2Proof/Machine/Flags.lean ====
section
/-! DEFINITION. The frame flags (spec/30_encoding.md R59 to R63, spec/41_encoder.md R80 to R82) and the numbers of
the result codes (spec/30_encoding.md R64 to R67). These are the block's only flags (spec/10_state.md R34). -/

namespace Sys2Proof.Machine

/-- The type tags by name (spec/30_encoding.md R61). -/
def tagAggregation : BitVec 3 := 1#3
def tagData : BitVec 3 := 2#3
def tagFinish : BitVec 3 := 3#3
def tagStation : BitVec 3 := 4#3
def tagError : BitVec 3 := 5#3
def tagSynchro : BitVec 3 := 6#3

/-- The modifiers NOT_SET, ACKNOWLEDGE and PARTIAL (spec/30_encoding.md R62). -/
def modNotSet : FrameFlags := 0x00#7
def modAck : FrameFlags := 0x08#7
def modPartial : FrameFlags := 0x10#7

/-- TAG = flags[2:0] (spec/30_encoding.md R60). -/
def flagsTag (f : FrameFlags) : BitVec 3 := f.extractLsb' 0 3

/-- ACK = flags[3]. -/
def flagsAck (f : FrameFlags) : Bool := f.getLsbD 3

/-- PARTIAL = flags[4]. -/
def flagsPartial (f : FrameFlags) : Bool := f.getLsbD 4

/-- RSV = flags[6:5]. -/
def flagsRsv (f : FrameFlags) : BitVec 2 := f.extractLsb' 5 2

/-- TAG names a package kind: it is in 1..6 (spec/30_encoding.md R61, spec/60_exceptions.md R119). -/
def tagNamed (t : BitVec 3) : Bool := decide (1 ≤ t.toNat) && decide (t.toNat ≤ 6)

/-- A flags value is valid when its RSV bits are 0 and its TAG is in 1..6 (spec/30_encoding.md R63). -/
def flagsValid (f : FrameFlags) : Bool := decide (flagsRsv f = 0#2) && tagNamed (flagsTag f)

/-- The type-tag multiplexer: TAG | ACK<<3 | PART<<4 (spec/41_encoder.md R80). -/
def baseFlags (tag : BitVec 3) (ack part : Bool) : FrameFlags :=
  tag.setWidth 7 ||| ((BitVec.ofBool ack).setWidth 7 <<< 3) ||| ((BitVec.ofBool part).setWidth 7 <<< 4)

/-- The flags of a fragment: PARTIAL added (spec/41_encoder.md R81). -/
def withPartial (f : FrameFlags) : FrameFlags := f ||| modPartial

/-- The sentinel's flags, from the last fragment's: FINISH | (last & 0x18) (spec/41_encoder.md R82). -/
def sentinelFlags (last : FrameFlags) : FrameFlags :=
  tagFinish.setWidth 7 ||| (last &&& (modAck ||| modPartial))

/-- Byte 0 of a frame: (version << 7) | flags (spec/30_encoding.md R59). -/
def headerByte (version : Bit) (f : FrameFlags) : Byte := version ++ f

/-- version = byte0[7] (spec/30_encoding.md R59). -/
def byteVersion (b : Byte) : Bit := b.extractLsb' 7 1

/-- flags = byte0[6:0] (spec/30_encoding.md R59). -/
def byteFlags (b : Byte) : FrameFlags := b.extractLsb' 0 7

/-- STATUS.ERR (spec/30_encoding.md R64). -/
def ErrCode.code : ErrCode → BitVec 4
  | .ok => 0#4
  | .invalidArgument => 1#4
  | .unsupportedType => 2#4
  | .outOfMemory => 3#4
  | .fragmentLimitExceeded => 4#4
  | .malformedFrame => 5#4
  | .illegalCommand => 6#4

/-- STATUS.REASON (spec/30_encoding.md R65). -/
def FrameReason.code : FrameReason → BitVec 4
  | .none => 0#4
  | .truncated => 1#4
  | .checksumMismatch => 2#4
  | .oversize => 3#4
  | .lengthMismatch => 4#4
  | .invalidVersion => 5#4
  | .invalidFlags => 6#4

/-- REASM_STATUS.STATE (spec/30_encoding.md R66). -/
def ReasmState.code : ReasmState → BitVec 2
  | .idle => 0#2
  | .collecting => 1#2
  | .complete => 2#2
  | .failed => 3#2

/-- REASM_STATUS.EVENT (spec/30_encoding.md R67). -/
def ReasmEvent.code : ReasmEvent → BitVec 4
  | .none => 0#4
  | .started => 1#4
  | .appended => 2#4
  | .completeSingle => 3#4
  | .completeFin => 4#4
  | .dropped => 5#4
  | .strayFinish => 6#4
  | .ignoredTerminal => 7#4
  | .failTagMismatch => 8#4
  | .failOverflow => 9#4
  | .failProtocol => 10#4

end Sys2Proof.Machine
end

