-- ==== Sys2Proof/Machine/Ops.lean ====
section
/-! DEFINITION. The operations every command is built from: reading and writing a buffer's cells, writing each
register, and the two ways a command ends (`finish`, `raise` of spec/00_scope.md R15). The block has no trap, no
handler and no return from one (spec/60_exceptions.md R126, R127): `raise` is the whole error mechanism (R116). -/

namespace Sys2Proof.Machine

namespace Memory

/-- What an unlisted address reads as: 0x00, DESIGN CHOICE (log entry 7; spec/10_state.md R32 leaves the byte
unspecified). -/
def unlisted : Byte := 0x00#8

/-- The canonical form: addresses strictly rising, and no cell that equals what an unlisted address reads as. -/
abbrev wf (m : Memory) : Prop :=
  m.Pairwise (fun c d => c.1 < d.1) ∧ ∀ c ∈ m, c.2 ≠ unlisted

/-- Every listed address is below `size`. -/
abbrev within (m : Memory) (size : Nat) : Prop := ∀ c ∈ m, c.1 < size

/-- `BUF[i]` (spec/00_scope.md R15). -/
def read : Memory → Nat → Byte
  | [], _ => unlisted
  | c :: m, i => if c.1 = i then c.2 else read m i

/-- `BUF[i] <- b`, keeping the canonical form. -/
def write : Memory → Nat → Byte → Memory
  | [], i, b => if b = unlisted then [] else [(i, b)]
  | c :: m, i, b =>
    if i < c.1 then (if b = unlisted then c :: m else (i, b) :: c :: m)
    else if i = c.1 then (if b = unlisted then m else (i, b) :: m)
    else c :: write m i b

/-- `BUF[i] <- b` in a buffer of `size` bytes; a store outside it has no effect (for the host: spec/20_memory.md
R38; for a command this arises in no reachable state, log entry 10). -/
def store (size : Nat) (m : Memory) (i : Nat) (b : Byte) : Memory :=
  if i < size then m.write i b else m

/-- `BUF[i .. i + len(bs)) <- bs`. -/
def storeBytes (size : Nat) : Memory → Nat → List Byte → Memory
  | m, _, [] => m
  | m, i, b :: bs => storeBytes size (m.store size i b) (i + 1) bs

/-- `BUF[i .. i + n)`. -/
def load (m : Memory) : Nat → Nat → List Byte
  | _, 0 => []
  | i, n + 1 => m.read i :: load m (i + 1) n

/-- A buffer of `size` bytes whose bytes from index 0 are those drawn (spec/10_state.md R32). -/
def ofDrawn (size : Nat) (drawn : List Byte) : Memory := storeBytes size [] 0 drawn

end Memory

/-- v[7:0]. -/
def lowByte (v : Half) : Byte := v.extractLsb' 0 8

/-- v[15:8]. -/
def highByte (v : Half) : Byte := v.extractLsb' 8 8

/-- `lo | (hi << 8)`: the low byte comes first (spec/20_memory.md R39, R40). -/
def halfOfBytes (lo hi : Byte) : Half := hi ++ lo

namespace State

/-- CMD.WORD <- w (spec/10_state.md R18). -/
def setCmdWord (s : State) (w : Word) : State := { s with cmdWord := w }

/-- LEN.LEN <- n (R19). -/
def setLen (s : State) (n : Half) : State := { s with len := n }

/-- CFG.VERSION <- v (R20). -/
def setCfgVersion (s : State) (v : Bit) : State := { s with cfgVersion := v }

/-- STATUS <- r (R21). -/
def setStatus (s : State) (r : StatusReg) : State := { s with status := r }

/-- CRC.STATE <- v (R22). -/
def setCrcState (s : State) (v : Half) : State := { s with crcState := v }

/-- ENC_RESULT <- r (R23). -/
def setEncResult (s : State) (r : EncResultReg) : State := { s with encResult := r }

/-- DEC_HDR <- r (R24). -/
def setDecHdr (s : State) (r : DecHdrReg) : State := { s with decHdr := r }

/-- DEC_CRC <- r (R25). -/
def setDecCrc (s : State) (r : DecCrcReg) : State := { s with decCrc := r }

/-- REASM_STATUS <- r (R26). -/
def setReasm (s : State) (r : ReasmReg) : State := { s with reasm := r }

/-- REASM_LEN.ACC_LEN <- n (R27). -/
def setAccLen (s : State) (n : Half) : State := { s with accLen := n }

/-- The bytes of IN_BUF (R31). -/
def setInBuf (s : State) (m : Memory) : State := { s with inBuf := m }

/-- The bytes of OUT_BUF (R31). -/
def setOutBuf (s : State) (m : Memory) : State := { s with outBuf := m }

/-- The bytes of DEC_BUF (R31). -/
def setDecBuf (s : State) (m : Memory) : State := { s with decBuf := m }

/-- The bytes of REASM_BUF (R31). -/
def setReasmBuf (s : State) (m : Memory) : State := { s with reasmBuf := m }

/-- The host events still to come (log entry 3). -/
def setPending (s : State) (es : List HostEvent) : State := { s with pending := es }

/-- The result of the last host read (log entry 4). -/
def setResponse (s : State) (r : Response) : State := { s with response := r }

end State

/-- ENC_RESULT <- 0 (spec/41_encoder.md R83). -/
def EncResultReg.zero : EncResultReg := { frameCount := 0#8, outLen := 0#16 }

/-- DEC_HDR <- 0x00000000 (spec/42_decoder.md R89). -/
def DecHdrReg.zero : DecHdrReg :=
  { flags := 0#7, version := 0#1, id := 0#8, length := 0#8, valid := false }

/-- DEC_CRC <- 0x00000000 (spec/42_decoder.md R89). -/
def DecCrcReg.zero : DecCrcReg := { received := 0#16, computed := 0#16 }

/-- REASM_STATUS <- 0 (spec/43_reassembly.md R104). -/
def ReasmReg.zero : ReasmReg := { state := .idle, event := .none, fragCount := 0#8, firstFlags := 0#7 }

/-- `finish OK`: the command ends with STATUS.ERR = 0 and STATUS.REASON = 0 (spec/00_scope.md R15). -/
def finish (s : State) : Result := .next (s.setStatus { err := .ok, reason := .none })

/-- `raise E(reason)`: the command ends with the error's code and the reason in STATUS, and nothing else
(spec/00_scope.md R15, spec/60_exceptions.md R116). It is no trap: the machine goes on (R126). -/
def raise (e : ErrCode) (r : FrameReason) (s : State) : Result :=
  .next (s.setStatus { err := e, reason := r })

/-- The reset input (spec/70_reset_and_hazards.md R135): every register at its value of spec/10_state.md R36, every
buffer byte the drawn one (R32), the configuration unchanged. The host's side (`pending`, `response`) is not the
block's, and stays (log entry 8). -/
def applyReset (drawn : Drawn) (s : State) : State :=
  { State.resetOf s.cfg with
    inBuf := Memory.ofDrawn s.cfg.inSize drawn.inBuf
    outBuf := Memory.ofDrawn s.cfg.outSize drawn.outBuf
    decBuf := Memory.ofDrawn s.cfg.decSize drawn.decBuf
    reasmBuf := Memory.ofDrawn s.cfg.reasmSize drawn.reasmBuf
    pending := s.pending
    response := s.response }

end Sys2Proof.Machine
end

