-- ==== Sys2Proof/Machine/Operands.lean ====
section
/-! DEFINITION. The operands of the commands: the input IN_BUF[0 .. LEN) of CRC.BUF, ENC and DEC (spec/10_state.md
R19), and frame k of OUT_BUF for the rewrites (spec/41_encoder.md R79). The fields of the command word are
operands already in `Instr` (spec/30_encoding.md R53). -/

namespace Sys2Proof.Machine

/-- LEN.LEN as a number (spec/10_state.md R19). -/
def inputLen (s : State) : Nat := s.len.toNat

/-- The input is all in IN_BUF: LEN <= IN_SIZE (spec/60_exceptions.md R118). -/
def inputFits (s : State) : Bool := decide (inputLen s ≤ s.cfg.inSize)

/-- IN_BUF[0 .. LEN). -/
def inputBytes (s : State) : List Byte := s.inBuf.load 0 (inputLen s)

/-- off(k): off(0) = 0 and off(k+1) = off(k) + 5 + OUT_BUF[off(k) + 2] (spec/41_encoder.md R79). -/
def frameOffset (m : Memory) : Nat → Nat
  | 0 => 0
  | k + 1 => frameOffset m k + 5 + (m.read (frameOffset m k + 2)).toNat

/-- The length byte of frame k: OUT_BUF[off(k) + 2]. -/
def frameLength (m : Memory) (k : Nat) : Nat := (m.read (frameOffset m k + 2)).toNat

/-- Frame k: OUT_BUF[off(k) .. off(k) + 5 + OUT_BUF[off(k) + 2]) (spec/41_encoder.md R79). -/
def frameBytes (m : Memory) (k : Nat) : List Byte := m.load (frameOffset m k) (5 + frameLength m k)

end Sys2Proof.Machine
end

