-- ==== Sys2Proof/Machine/Crc.lean ====
section
/-! DEFINITION. The checksum (spec/40_crc.md R70, R71) and the commands CRC.CLEAR, CRC.UPDATE and CRC.BUF (R74 to
R76). -/

namespace Sys2Proof.Machine

/-- reflect_n(v): bit i of the result is v[n-1-i] (spec/40_crc.md R70). -/
def reflect {n : Nat} (v : BitVec n) : BitVec n := v.reverse

/-- One of the eight shifts of crc_step (spec/40_crc.md R70). -/
def crcShift (p : CrcParams) (s : Half) : Half :=
  if s.getLsbD 15 then (s <<< 1) ^^^ p.poly else s <<< 1

/-- The byte as crc_step takes it in: reflected when REFIN (spec/40_crc.md R70). -/
def crcInput (p : CrcParams) (b : Byte) : Byte := if p.refin then reflect b else b

/-- crc_step(s, b) (spec/40_crc.md R70). -/
def crcStep (p : CrcParams) (s : Half) (b : Byte) : Half :=
  Nat.repeat (crcShift p) 8 (s ^^^ ((crcInput p b).setWidth 16 <<< 8))

/-- crc_raw(s0, bytes): crc_step folded over the bytes, left to right (spec/40_crc.md R70). -/
def crcRaw (p : CrcParams) (s0 : Half) (bytes : List Byte) : Half := bytes.foldl (crcStep p) s0

/-- finalize(s) = (REFOUT ? reflect_16(s) : s) ^ XOROUT (spec/40_crc.md R71). -/
def crcFinalize (p : CrcParams) (s : Half) : Half := (if p.refout then reflect s else s) ^^^ p.xorout

/-- checksum(bytes) = finalize(crc_raw(INIT, bytes)) (spec/40_crc.md R71). -/
def checksum (p : CrcParams) (bytes : List Byte) : Half := crcFinalize p (crcRaw p p.init bytes)

/-- CRC.CLEAR (spec/40_crc.md R74). -/
def execCrcClear (s : State) : Result := finish (s.setCrcState s.cfg.crc.init)

/-- CRC.UPDATE b (spec/40_crc.md R75). -/
def execCrcUpdate (data : Byte) (s : State) : Result :=
  finish (s.setCrcState (crcStep s.cfg.crc s.crcState data))

/-- CRC.BUF (spec/40_crc.md R76). -/
def execCrcBuf (s : State) : Result :=
  if inputFits s then finish (s.setCrcState (crcRaw s.cfg.crc s.cfg.crc.init (inputBytes s)))
  else raise .invalidArgument .none s

end Sys2Proof.Machine
end

