-- ==== Sys2Proof/Machine/Encoder.lean ====
section
/-! DEFINITION. The frame encoder: one wire frame (spec/41_encoder.md R78), the fragmentation splitter (R81), the
terminator sentinel (R82) and the command ENC (R83). -/

namespace Sys2Proof.Machine

/-- Bytes 0 .. 2+length of a frame: what its checksum covers (spec/41_encoder.md R78). -/
def frameHead (version : Bit) (f : FrameFlags) (id : Byte) (payload : List Byte) : List Byte :=
  headerByte version f :: id :: BitVec.ofNat 8 payload.length :: payload

/-- The two checksum bytes of the bytes before them, low byte first (spec/20_memory.md R39). -/
def checksumBytes (p : CrcParams) (bytes : List Byte) : List Byte :=
  [lowByte (checksum p bytes), highByte (checksum p bytes)]

/-- wire_frame(v, f, id, payload) (spec/41_encoder.md R78). -/
def wireFrame (p : CrcParams) (version : Bit) (f : FrameFlags) (id : Byte) (payload : List Byte) : List Byte :=
  frameHead version f id payload ++ checksumBytes p (frameHead version f id payload)

/-- One chunk (flags, start, size) of the splitter (spec/41_encoder.md R81). -/
structure Chunk where
  flags : FrameFlags
  start : Nat
  size : Nat
deriving DecidableEq, Repr

/-- K = ceil(L / M), the number of non-terminal fragments (spec/41_encoder.md R81). -/
def fragmentCount (c : Config) (len : Nat) : Nat := (len + c.maxPayload - 1) / c.maxPayload

/-- Fragment i of the fragmented branch: (base | 0x10, i*M, min(M, L - i*M)) (spec/41_encoder.md R81). -/
def fragment (c : Config) (len : Nat) (base : FrameFlags) (i : Nat) : Chunk :=
  { flags := withPartial base, start := i * c.maxPayload, size := min c.maxPayload (len - i * c.maxPayload) }

/-- The fragmentation splitter; `none` is FragmentLimitExceeded (spec/41_encoder.md R81). -/
def split (c : Config) (len : Nat) (base : FrameFlags) : Option (List Chunk) :=
  if len < c.maxPayload then some [{ flags := base, start := 0, size := len }]
  else if fragmentCount c len > c.maxFragments then none
  else some ((List.range (fragmentCount c len)).map (fragment c len base))

/-- The terminator sentinel: after the fragmented branch, and unless the fragments carry the FINISH tag, one
empty frame whose flags come from the last fragment's (spec/41_encoder.md R82). -/
def sentinel (c : Config) (len : Nat) (base : FrameFlags) : List Chunk :=
  if len < c.maxPayload then []
  else if flagsTag (withPartial base) = tagFinish then []
  else [{ flags := sentinelFlags (withPartial base), start := 0, size := 0 }]

/-- The wire bytes of one chunk of the input: id 0x00, version CFG.VERSION (spec/41_encoder.md R83). -/
def chunkFrame (s : State) (ch : Chunk) : List Byte :=
  wireFrame s.cfg.crc s.cfgVersion ch.flags 0x00#8 (s.inBuf.load ch.start ch.size)

/-- ENC tag[, ACK][, PARTIAL] (spec/41_encoder.md R83). Every error is found before a byte of OUT_BUF is written;
the frames stand back to back from index 0 (R79). -/
def execEnc (tag : BitVec 3) (ack part : Bool) (s : State) : Result :=
  if !inputFits s then raise .invalidArgument .none (s.setEncResult .zero)
  else if !tagNamed tag then raise .unsupportedType .none (s.setEncResult .zero)
  else
    match split s.cfg (inputLen s) (baseFlags tag ack part) with
    | none => raise .fragmentLimitExceeded .none (s.setEncResult .zero)
    | some chunks =>
      let frames := chunks ++ sentinel s.cfg (inputLen s) (baseFlags tag ack part)
      let bytes := frames.flatMap (chunkFrame s)
      finish ((s.setOutBuf (Memory.storeBytes s.cfg.outSize s.outBuf 0 bytes)).setEncResult
        { frameCount := BitVec.ofNat 8 frames.length, outLen := BitVec.ofNat 16 bytes.length })

end Sys2Proof.Machine
end

