-- ==== Sys2Proof/Machine/Rewrite.lean ====
section
/-! DEFINITION. The identifier rewrite of encoded frames: REWRITE.ID (spec/41_encoder.md R85) and REWRITE.ALL
(R86). -/

namespace Sys2Proof.Machine

/-- The body of spec/41_encoder.md R85 for frame k: byte 1 becomes the id, and the checksum is computed again over
all bytes but the two checksum bytes. -/
def rewriteFrame (c : Config) (id : Byte) (m : Memory) (k : Nat) : Memory :=
  let o := frameOffset m k
  let n := frameLength m k
  let m := m.store c.outSize (o + 1) id
  m.storeBytes c.outSize (o + 3 + n) (checksumBytes c.crc (m.load o (3 + n)))

/-- REWRITE.ID k, id (spec/41_encoder.md R85). -/
def execRewriteId (idx : Nat) (id : Byte) (s : State) : Result :=
  if idx ≥ s.encResult.frameCount.toNat then raise .invalidArgument .none s
  else finish (s.setOutBuf (rewriteFrame s.cfg id s.outBuf idx))

/-- REWRITE.ALL id: the body of R85 for k = 0 .. FRAME_COUNT-1 (spec/41_encoder.md R86). -/
def execRewriteAll (id : Byte) (s : State) : Result :=
  if s.encResult.frameCount = 0#8 then raise .invalidArgument .none s
  else finish (s.setOutBuf
    ((List.range s.encResult.frameCount.toNat).foldl (rewriteFrame s.cfg id) s.outBuf))

end Sys2Proof.Machine
end

