-- ==== Sys2Proof/Machine/Decoder.lean ====
section
/-! DEFINITION. The frame decoder: the checks of DEC in their order (spec/42_decoder.md R91 to R97) and the command
DEC (R89, R90, R98). -/

namespace Sys2Proof.Machine

/-- A frame that decoded (spec/42_decoder.md R88): version, flags, id, length, payload, received and computed
checksum. -/
structure Frame where
  version : Bit
  flags : FrameFlags
  id : Byte
  length : Byte
  payload : List Byte
  received : Half
  computed : Half
deriving DecidableEq, Repr

/-- The raw frame IN_BUF[0 .. n) checked and parsed, the first failing check reported (spec/42_decoder.md R90, R91):
Truncated, ChecksumMismatch, Oversize, LengthMismatch, InvalidFlags. InvalidVersion is never raised (R97). -/
def decodeFrame (c : Config) (n : Nat) (m : Memory) : Except FrameReason Frame :=
  if n < 5 then .error .truncated
  else
    let rx := halfOfBytes (m.read (n - 2)) (m.read (n - 1))
    let cc := checksum c.crc (m.load 0 (n - 2))
    if rx ≠ cc then .error .checksumMismatch
    else
      let b0 := m.read 0
      let len := m.read 2
      if len.toNat > c.maxPayload then .error .oversize
      else if n ≠ len.toNat + 5 then .error .lengthMismatch
      else if !flagsValid (byteFlags b0) then .error .invalidFlags
      else .ok
        { version := byteVersion b0, flags := byteFlags b0, id := m.read 1, length := len,
          payload := m.load 3 len.toNat, received := rx, computed := cc }

/-- A decoded frame in DEC_BUF, DEC_HDR and DEC_CRC, VALID set (spec/42_decoder.md R98). -/
def holdFrame (fr : Frame) (s : State) : State :=
  ((s.setDecBuf (Memory.storeBytes s.cfg.decSize s.decBuf 0 fr.payload)).setDecHdr
    { flags := fr.flags, version := fr.version, id := fr.id, length := fr.length, valid := true }).setDecCrc
    { received := fr.received, computed := fr.computed }

/-- Every DEC first clears DEC_HDR and DEC_CRC (spec/42_decoder.md R89). -/
def clearDecoded (s : State) : State := (s.setDecHdr .zero).setDecCrc .zero

/-- DEC (spec/42_decoder.md R90). -/
def execDec (s : State) : Result :=
  if !inputFits s then raise .invalidArgument .none (clearDecoded s)
  else
    match decodeFrame s.cfg (inputLen s) s.inBuf with
    | .error r => raise .malformedFrame r (clearDecoded s)
    | .ok fr => finish (holdFrame fr (clearDecoded s))

end Sys2Proof.Machine
end

