-- ==== Sys2Proof/Machine/Reassembly.lean ====
section
/-! DEFINITION. The reassembly accumulator: append (spec/43_reassembly.md R103), REASM.RESET (R104) and REASM.ACCEPT
(R105 to R110). -/

namespace Sys2Proof.Machine

/-- append(): the last decoded payload goes to the end of the accumulation (spec/43_reassembly.md R103). -/
def appendPayload (s : State) : State :=
  (s.setReasmBuf (Memory.storeBytes s.cfg.reasmSize s.reasmBuf s.accLen.toNat
    (s.decBuf.load 0 s.decHdr.length.toNat))).setAccLen (s.accLen + s.decHdr.length.setWidth 16)

/-- EVENT <- e. -/
def setEvent (s : State) (e : ReasmEvent) : State := s.setReasm { s.reasm with event := e }

/-- STATE <- st ; EVENT <- e. -/
def setOutcome (s : State) (st : ReasmState) (e : ReasmEvent) : State :=
  s.setReasm { s.reasm with state := st, event := e }

/-- FRAG_COUNT <- n. -/
def setFragCount (s : State) (n : Byte) : State := s.setReasm { s.reasm with fragCount := n }

/-- The case Idle of REASM.ACCEPT, with a valid decoded frame (spec/43_reassembly.md R105, R106). -/
def acceptIdle (s : State) : State :=
  if flagsTag s.decHdr.flags = tagFinish then setEvent s .strayFinish
  else
    let first := s.setReasm { s.reasm with firstFlags := s.decHdr.flags }
    let appended := setFragCount (appendPayload (first.setAccLen 0#16)) 1#8
    if flagsPartial s.decHdr.flags then setOutcome appended .collecting .started
    else setOutcome appended .complete .completeSingle

/-- The case Collecting of REASM.ACCEPT, with a valid decoded frame (spec/43_reassembly.md R105, R107). -/
def acceptCollecting (s : State) : State :=
  if flagsTag s.decHdr.flags = tagFinish then
    if s.decHdr.length ≠ 0#8 then setOutcome s .failed .failProtocol
    else setOutcome s .complete .completeFin
  else if flagsTag s.decHdr.flags ≠ flagsTag s.reasm.firstFlags then setOutcome s .failed .failTagMismatch
  else if !flagsPartial s.decHdr.flags then setOutcome s .failed .failProtocol
  else if s.reasm.fragCount.toNat = s.cfg.maxFragments then setOutcome s .failed .failOverflow
  else setEvent (setFragCount (appendPayload s) (s.reasm.fragCount + 1#8)) .appended

/-- The state machine fed with what DEC_HDR and DEC_BUF hold; `valid` is the VALID bit before it was cleared
(spec/43_reassembly.md R105). -/
def acceptFrame (valid : Bool) (s : State) : State :=
  match s.reasm.state with
  | .complete => setEvent s .ignoredTerminal
  | .failed => setEvent s .ignoredTerminal
  | .idle => if valid then acceptIdle s else setEvent s .dropped
  | .collecting => if valid then acceptCollecting s else setEvent s .dropped

/-- DEC_HDR.VALID <- 0: a decoded frame is consumed at most once (spec/43_reassembly.md R105). -/
def consumeDecoded (s : State) : State := s.setDecHdr { s.decHdr with valid := false }

/-- REASM.RESET (spec/43_reassembly.md R104). -/
def execReasmReset (s : State) : Result := finish ((s.setReasm .zero).setAccLen 0#16)

/-- REASM.ACCEPT (spec/43_reassembly.md R105): it always finishes OK. -/
def execReasmAccept (s : State) : Result := finish (acceptFrame s.decHdr.valid (consumeDecoded s))

end Sys2Proof.Machine
end

