-- ==== Sys2Proof/Machine/Control.lean ====
section
/-! DEFINITION. NOP (spec/44_control.md R114) and the effect of a word that selects no command (R115). -/

namespace Sys2Proof.Machine

/-- NOP (spec/44_control.md R114). -/
def execNop (s : State) : Result := finish s

/-- IllegalCommand: the effect of every word that decodes to no command (spec/44_control.md R115). -/
def illegalCommand (s : State) : Result := raise .illegalCommand .none s

end Sys2Proof.Machine
end

