-- ==== Sys2Proof/Machine/Dispatch.lean ====
section
/-! DEFINITION. One arm per command: the meaning of each. -/

namespace Sys2Proof.Machine

def exec (i : Instr) (s : State) : Host.Outcome State Fault Refusal :=
  match i with
  | .nop => Sys2Proof.Machine.execNop s
  | .crcClear => Sys2Proof.Machine.execCrcClear s
  | .crcUpdate data => Sys2Proof.Machine.execCrcUpdate data s
  | .crcBuf => Sys2Proof.Machine.execCrcBuf s
  | .enc tag ack part => Sys2Proof.Machine.execEnc tag ack part s
  | .rewriteId idx id => Sys2Proof.Machine.execRewriteId idx id s
  | .rewriteAll id => Sys2Proof.Machine.execRewriteAll id s
  | .dec => Sys2Proof.Machine.execDec s
  | .reasmReset => Sys2Proof.Machine.execReasmReset s
  | .reasmAccept => Sys2Proof.Machine.execReasmAccept s

end Sys2Proof.Machine
end

