-- ==== Sys2Proof/Machine/HostPort.lean ====
section
/-! DEFINITION. The host's side of the block: the register map (spec/10_state.md R17 to R30), the four host operations
(spec/44_control.md R113) and the reset input (spec/70_reset_and_hazards.md R135). -/

namespace Sys2Proof.Machine

/-- The host writes a command word: CMD.WORD takes it, then the command it encodes runs (spec/10_state.md R18); a word
that selects no command raises IllegalCommand (spec/30_encoding.md R54). -/
def runCommand (w : Word) (s : State) : Result :=
  match decode w with
  | .ok i => exec i (s.setCmdWord w)
  | .error _ => illegalCommand (s.setCmdWord w)

/-- STATUS as a word: [3:0] ERR; [7:4] REASON (spec/10_state.md R17). -/
def statusWord (r : StatusReg) : Word := 0#24 ++ r.reason.code ++ r.err.code

/-- CRC as a word: [15:0] STATE; [31:16] RESULT = finalize(STATE) (R22). -/
def crcWord (p : CrcParams) (st : Half) : Word := crcFinalize p st ++ st

/-- ENC_RESULT as a word: [7:0] FRAME_COUNT; [31:16] OUT_LEN (R23). -/
def encResultWord (r : EncResultReg) : Word := r.outLen ++ 0#8 ++ r.frameCount

/-- DEC_HDR as a word: [6:0] FLAGS; [7] VERSION; [15:8] ID; [23:16] LENGTH; [24] VALID (R24). -/
def decHdrWord (r : DecHdrReg) : Word := 0#7 ++ BitVec.ofBool r.valid ++ r.length ++ r.id ++ r.version ++ r.flags

/-- DEC_CRC as a word: [15:0] RECEIVED; [31:16] COMPUTED (R25). -/
def decCrcWord (r : DecCrcReg) : Word := r.computed ++ r.received

/-- REASM_STATUS as a word: [1:0] STATE; [7:4] EVENT; [15:8] FRAG_COUNT; [22:16] FIRST_FLAGS (R26). -/
def reasmWord (r : ReasmReg) : Word := 0#9 ++ r.firstFlags ++ r.fragCount ++ r.event.code ++ 0#2 ++ r.state.code

/-- PARAM0 = IN_SIZE, F, M, highest first (R28). -/
def param0 (c : Config) : Word :=
  BitVec.ofNat 16 c.inSize ++ BitVec.ofNat 8 c.maxFragments ++ BitVec.ofNat 8 c.maxPayload

/-- PARAM1 = REASM_SIZE, OUT_SIZE (R28). -/
def param1 (c : Config) : Word := BitVec.ofNat 16 c.reasmSize ++ BitVec.ofNat 16 c.outSize

/-- PARAM2 = INIT, POLY (R28). -/
def param2 (c : Config) : Word := c.crc.init ++ c.crc.poly

/-- PARAM3 = XOROUT, zero, REFOUT, REFIN (R28). -/
def param3 (c : Config) : Word :=
  c.crc.xorout ++ 0#14 ++ BitVec.ofBool c.crc.refout ++ BitVec.ofBool c.crc.refin

/-- `RD off`: the register with its reserved bits 0, or 0 for a reserved or misaligned offset (spec/10_state.md R17,
R30; spec/20_memory.md R43). -/
def regWord (s : State) (off : BitVec 8) : Word :=
  if off = 0x00#8 then s.cmdWord
  else if off = 0x04#8 then s.len.setWidth 32
  else if off = 0x08#8 then s.cfgVersion.setWidth 32
  else if off = 0x0C#8 then statusWord s.status
  else if off = 0x10#8 then crcWord s.cfg.crc s.crcState
  else if off = 0x14#8 then encResultWord s.encResult
  else if off = 0x18#8 then decHdrWord s.decHdr
  else if off = 0x1C#8 then decCrcWord s.decCrc
  else if off = 0x20#8 then reasmWord s.reasm
  else if off = 0x24#8 then s.accLen.setWidth 32
  else if off = 0x28#8 then param0 s.cfg
  else if off = 0x2C#8 then param1 s.cfg
  else if off = 0x30#8 then param2 s.cfg
  else if off = 0x34#8 then param3 s.cfg
  else 0#32

/-- `WR off, v`: CMD runs a command; LEN and CFG take their defined fields; every other offset ignores the write
(spec/44_control.md R113; spec/10_state.md R29, R30). -/
def writeRegister (off : BitVec 8) (v : Word) (s : State) : Result :=
  if off = 0x00#8 then runCommand v s
  else if off = 0x04#8 then .next (s.setLen (v.extractLsb' 0 16))
  else if off = 0x08#8 then .next (s.setCfgVersion (v.extractLsb' 0 1))
  else .next s

/-- The bytes of a buffer. -/
def bufferOf (s : State) : Buffer → Memory
  | .inBuf => s.inBuf
  | .outBuf => s.outBuf
  | .decBuf => s.decBuf
  | .reasmBuf => s.reasmBuf

/-- The size of a buffer (spec/10_state.md R31). -/
def bufferSize (c : Config) : Buffer → Nat
  | .inBuf => c.inSize
  | .outBuf => c.outSize
  | .decBuf => c.decSize
  | .reasmBuf => c.reasmSize

/-- A host read of a buffer: the byte, or 0 at or above the size (spec/20_memory.md R38). -/
def bufferByte (s : State) (space : Buffer) (i : Nat) : Byte :=
  if i < bufferSize s.cfg space then (bufferOf s space).read i else 0x00#8

/-- A host write of a buffer: IN_BUF takes the byte below its size; nothing else is written (spec/20_memory.md R38). -/
def writeBuffer (space : Buffer) (i : Nat) (b : Byte) (s : State) : State :=
  match space with
  | .inBuf => s.setInBuf (s.inBuf.store s.cfg.inSize i b)
  | .outBuf => s
  | .decBuf => s
  | .reasmBuf => s

/-- The effect of one event (spec/44_control.md R113, spec/70_reset_and_hazards.md R135). -/
def hostEvent (e : HostEvent) (s : State) : Result :=
  match e with
  | .readReg off => .next (s.setResponse (.word (regWord s off)))
  | .writeReg off v => writeRegister off v s
  | .readBuf space i => .next (s.setResponse (.byte (bufferByte s space i)))
  | .writeBuf space i b => .next (writeBuffer space i b s)
  | .reset drawn => .next (applyReset drawn s)

/-- The next event happens; with none waiting, the block holds its state (spec/60_exceptions.md R134). -/
def nextEvent (s : State) : Result :=
  match s.pending with
  | [] => .next s
  | e :: rest => hostEvent e (s.setPending rest)

end Sys2Proof.Machine
end

