-- ==== Sys2Proof/Machine/Step.lean ====
section
/-! DEFINITION. One step of the machine: one host operation or reset (spec/44_control.md R113: "A model step is one
host operation"). -/

namespace Sys2Proof.Machine

/-- One step. An illegal configuration is refused (spec/00_scope.md R11). -/
def step (s : State) : Host.Outcome State Fault Refusal :=
  if s.cfg.legal then nextEvent s else .refused .illegalConfiguration

/-- `s` with a command word as the next thing the host writes to CMD: the block fetches from nowhere
(spec/20_memory.md R50), so this is where a step takes its command from (log entry 6). -/
def State.withFetchWord (s : State) (nbits w : Nat) : State :=
  s.setPending (.writeReg 0x00#8 (tableWord nbits w) :: s.pending)

end Sys2Proof.Machine
end

