-- ==== Sys2Proof/Machine/HostProgram.lean ====
section
/-! DEFINITION. What a host does over several steps: the assembler spelling of the commands (spec/30_encoding.md R68)
and the host pseudo-operations with their expansion into host operations (R69). They add no state and no command. -/

namespace Sys2Proof.Machine

/-- The value of one digit in base 16. -/
def digitValue (c : Char) : Option Nat :=
  if '0' ≤ c ∧ c ≤ '9' then some (c.toNat - '0'.toNat)
  else if 'a' ≤ c ∧ c ≤ 'f' then some (c.toNat - 'a'.toNat + 10)
  else if 'A' ≤ c ∧ c ≤ 'F' then some (c.toNat - 'A'.toNat + 10)
  else none

/-- A run of digits in a base, after the value read so far. -/
def digitsValue (base : Nat) : Nat → List Char → Option Nat
  | n, [] => some n
  | n, c :: cs =>
    match digitValue c with
    | none => none
    | some d => if d < base then digitsValue base (base * n + d) cs else none

/-- A number: decimal or 0x-prefixed hexadecimal (spec/30_encoding.md R68). -/
def numberValue : List Char → Option Nat
  | [] => none
  | '0' :: 'x' :: c :: cs => digitsValue 16 0 (c :: cs)
  | c :: cs => digitsValue 10 0 (c :: cs)

/-- A number of at most 8 bits as a command field; a larger one is refused, DESIGN CHOICE (log entry 19). -/
def byteOperand (t : String) : Option Byte :=
  match numberValue t.toList with
  | none => none
  | some n => if n < 256 then some (BitVec.ofNat 8 n) else none

/-- `#n`, a raw tag code n in 0..7 (spec/30_encoding.md R68). -/
def rawTag : List Char → Option (BitVec 3)
  | '#' :: cs =>
    match numberValue cs with
    | none => none
    | some n => if n < 8 then some (BitVec.ofNat 3 n) else none
  | _ => none

/-- A tag operand: a name of spec/30_encoding.md R61, or `#n`. -/
def tagOperand (t : String) : Option (BitVec 3) :=
  if t = "AGGREGATION" then some tagAggregation
  else if t = "DATA" then some tagData
  else if t = "FINISH" then some tagFinish
  else if t = "STATION" then some tagStation
  else if t = "ERROR" then some tagError
  else if t = "SYNCHRO" then some tagSynchro
  else rawTag t.toList

/-- The operands of ENC after the tag: [, ACK][, PARTIAL] (spec/30_encoding.md R68). -/
def modifierOperands (ts : List String) : Option (Bool × Bool) :=
  if ts = [] then some (false, false)
  else if ts = ["ACK"] then some (true, false)
  else if ts = ["PARTIAL"] then some (false, true)
  else if ts = ["ACK", "PARTIAL"] then some (true, true)
  else none

/-- The command a mnemonic without operands names. -/
def plainMnemonic (op : String) : Option Instr :=
  if op = "NOP" then some .nop
  else if op = "CRC.CLEAR" then some .crcClear
  else if op = "CRC.BUF" then some .crcBuf
  else if op = "DEC" then some .dec
  else if op = "REASM.RESET" then some .reasmReset
  else if op = "REASM.ACCEPT" then some .reasmAccept
  else none

/-- A command line, its mnemonic and its operands already cut at the commas (spec/30_encoding.md R68). A line in no form of
R68's table assembles to nothing, DESIGN CHOICE (log entry 19). -/
def assemble (op : String) : List String → Option Instr
  | [] => plainMnemonic op
  | [a] =>
    if op = "CRC.UPDATE" then (byteOperand a).map .crcUpdate
    else if op = "REWRITE.ALL" then (byteOperand a).map .rewriteAll
    else if op = "ENC" then (tagOperand a).map (fun t => .enc t false false)
    else none
  | a :: b :: rest =>
    if op = "ENC" then
      match tagOperand a, modifierOperands (b :: rest) with
      | some t, some m => some (.enc t m.1 m.2)
      | _, _ => none
    else if op = "REWRITE.ID" ∧ rest = [] then
      match byteOperand a, byteOperand b with
      | some k, some id => some (.rewriteId k.toNat id)
      | _, _ => none
    else none

/-- One line of a host program (spec/30_encoding.md R69). The rule gives `SETLEN n` and `SETVER v` no operand range: here n and v
are any 32-bit value, as the v of the `WR` they stand for, DESIGN CHOICE (log entry 17). -/
inductive HostLine where
  | wr (reg : BitVec 8) (v : Word)
  | rd (reg : BitVec 8)
  | wrin (i : Nat) (bytes : List Byte)
  | setLen (n : Word)
  | setVer (v : Word)
  | loadIn (bytes : List Byte)
  | copyOut (k : Nat)
  | decAcc
  | command (i : Instr)
deriving DecidableEq, Repr

/-- `WRIN i, b0 b1 ...`: the bytes go to IN_BUF[i], IN_BUF[i+1], ... (spec/30_encoding.md R69). -/
def writeIn : Nat → List Byte → List HostEvent
  | _, [] => []
  | i, b :: bs => .writeBuf .inBuf i b :: writeIn (i + 1) bs

/-- A host reading OUT_BUF[i .. i + n). -/
def readOut : Nat → Nat → List HostEvent
  | _, 0 => []
  | i, n + 1 => .readBuf .outBuf i :: readOut (i + 1) n

/-- `WR CMD, w` (spec/30_encoding.md R69: a mnemonic alone means this with its word). -/
def writeCommand (i : Instr) : List HostEvent := [.writeReg 0x00#8 (encode i)]

/-- `SETLEN n` = `WR LEN, n` (spec/30_encoding.md R69). -/
def writeLen (n : Word) : List HostEvent := [.writeReg 0x04#8 n]

/-- `LOADIN b0 ... bn-1` = `WRIN 0, b0 ... bn-1 ; SETLEN n` (spec/30_encoding.md R69), n modulo 2^32 (log entry 17). -/
def loadInput (bytes : List Byte) : List HostEvent :=
  writeIn 0 bytes ++ writeLen (BitVec.ofNat 32 bytes.length)

/-- The host operations of one line, for a host that sees the block in state `s` (spec/30_encoding.md R69). COPYOUT
reads frame k of OUT_BUF and then writes the bytes it read (log entry 13). R69 gives `COPYOUT k` no meaning when there is no
frame k (k >= FRAME_COUNT): here it follows the offsets of spec/41_encoder.md R79 over whatever bytes OUT_BUF holds and
loads what they give, DESIGN CHOICE (log entry 18). -/
def expand (s : State) : HostLine → List HostEvent
  | .wr reg v => [.writeReg reg v]
  | .rd reg => [.readReg reg]
  | .wrin i bytes => writeIn i bytes
  | .setLen n => writeLen n
  | .setVer v => [.writeReg 0x08#8 v]
  | .loadIn bytes => loadInput bytes
  | .copyOut k =>
    readOut (frameOffset s.outBuf k) (5 + frameLength s.outBuf k) ++ loadInput (frameBytes s.outBuf k)
  | .decAcc => writeCommand .dec ++ writeCommand .reasmAccept
  | .command i => writeCommand i

/-- A list of host events, one after the other, stopping at the first that gives no next state. -/
def runEvents : List HostEvent → State → Result
  | [], s => .next s
  | e :: es, s =>
    match hostEvent e s with
    | .next t => runEvents es t
    | .fault r => .fault r
    | .refused r => .refused r

/-- A host program, each line expanded in the state it finds. -/
def runLines : List HostLine → State → Result
  | [], s => .next s
  | l :: ls, s =>
    match runEvents (expand s l) s with
    | .next t => runLines ls t
    | .fault r => .fault r
    | .refused r => .refused r

end Sys2Proof.Machine
end

