-- ==== Sys2Proof/Safety.lean ====
section
/-! DEFINITION. What claims about the block are stated in: the well-formedness of a frame, the invariant that every
step keeps, and the relations between two states that no result may tell apart. -/

namespace Sys2Proof.Machine

/-- Wire bytes of one frame as the block's own encoder makes them (spec/41_encoder.md R78): payload of at most M
bytes, valid flags, right checksum. -/
def WireFrameOk (c : Config) (bytes : List Byte) : Prop :=
  ∃ (v : Bit) (f : FrameFlags) (id : Byte) (payload : List Byte),
    payload.length ≤ c.maxPayload ∧ flagsValid f = true ∧ bytes = wireFrame c.crc v f id payload

/-- The frames that a successful ENC owes for the payload IN_BUF[0 .. LEN), said in numbers and without the splitter
(spec/41_encoder.md R80 to R84): one frame below M bytes; otherwise ceil(L/M) fragments with PARTIAL, and one empty
FINISH|PARTIAL frame (with ACK if the command has it) unless the tag is FINISH = 3 itself. -/
def owedFrames (s : State) (tag : BitVec 3) (ack part : Bool) : List (List Byte) :=
  let len := s.len.toNat
  let m := s.cfg.maxPayload
  let frame := fun (flags start size : Nat) =>
    wireFrame s.cfg.crc s.cfgVersion (BitVec.ofNat 7 flags) 0x00#8 (s.inBuf.load start size)
  if len < m then [frame (tag.toNat + 8 * ack.toNat + 16 * part.toNat) 0 len]
  else
    (List.range ((len + m - 1) / m)).map
        (fun i => frame (tag.toNat + 8 * ack.toNat + 16) (i * m) (min m (len - i * m)))
      ++ (if tag.toNat = 3 then [] else [frame (3 + 8 * ack.toNat + 16) 0 0])

/-- ENC has what it needs to succeed: the input is in IN_BUF, the tag names a package kind, and at most F fragments
carry the payload (spec/41_encoder.md R83; ceil(L/M) <= F says L <= F*M). -/
structure EncReady (s : State) (tag : BitVec 3) : Prop where
  fits : s.len.toNat ≤ s.cfg.inSize
  tagLow : 1 ≤ tag.toNat
  tagHigh : tag.toNat ≤ 6
  limit : s.len.toNat ≤ s.cfg.maxFragments * s.cfg.maxPayload

/-- Each buffer is in the canonical form and lists no address at or above its size (spec/10_state.md R31). -/
structure MemoryOk (s : State) : Prop where
  inWf : s.inBuf.wf
  inWithin : s.inBuf.within s.cfg.inSize
  outWf : s.outBuf.wf
  outWithin : s.outBuf.within s.cfg.outSize
  decWf : s.decBuf.wf
  decWithin : s.decBuf.within s.cfg.decSize
  reasmWf : s.reasmBuf.wf
  reasmWithin : s.reasmBuf.within s.cfg.reasmSize

/-- STATUS never holds a reserved code, and REASON is 0 unless ERR is MalformedFrame (spec/10_state.md R21,
spec/60_exceptions.md R120, spec/42_decoder.md R97). -/
structure StatusOk (s : State) : Prop where
  noOutOfMemory : s.status.err ≠ .outOfMemory
  noInvalidVersion : s.status.reason ≠ .invalidVersion
  reasonIffMalformed : s.status.reason ≠ .none ↔ s.status.err = .malformedFrame

/-- OUT_BUF[0 .. OUT_LEN) is FRAME_COUNT good frames back to back (spec/10_state.md R23, spec/41_encoder.md R79). -/
structure FramesOk (s : State) : Prop where
  countLe : s.encResult.frameCount.toNat ≤ s.cfg.maxFragments + 1
  outLenLe : s.encResult.outLen.toNat ≤ s.cfg.outSize
  endsAtOutLen : frameOffset s.outBuf s.encResult.frameCount.toNat = s.encResult.outLen.toNat
  frames : ∀ k, k < s.encResult.frameCount.toNat → WireFrameOk s.cfg (frameBytes s.outBuf k)

/-- DEC_HDR, DEC_CRC and DEC_BUF hold one frame that passed every check, or DEC_HDR and DEC_CRC are 0
(spec/10_state.md R24, R25; spec/42_decoder.md R89, R98). -/
def DecodedOk (s : State) : Prop :=
  (s.decHdr = .zero ∧ s.decCrc = .zero) ∨
  (flagsValid s.decHdr.flags = true ∧ s.decHdr.length.toNat ≤ s.cfg.maxPayload ∧
    s.decCrc.received = s.decCrc.computed ∧
    s.decCrc.computed = checksum s.cfg.crc
      (frameHead s.decHdr.version s.decHdr.flags s.decHdr.id (s.decBuf.load 0 s.decHdr.length.toNat)))

/-- The reassembly state is one the transitions of spec/43_reassembly.md R105 can reach: FRAG_COUNT <= F and
ACC_LEN <= FRAG_COUNT*M (R103); Idle has no fragment; a message in progress has PARTIAL and a tag other than
FINISH; each state has only the events that lead to it or stay in it. -/
structure ReasmOk (s : State) : Prop where
  fragCountLe : s.reasm.fragCount.toNat ≤ s.cfg.maxFragments
  accLenLe : s.accLen.toNat ≤ s.reasm.fragCount.toNat * s.cfg.maxPayload
  idle : s.reasm.state = .idle →
    s.reasm.fragCount = 0#8 ∧ s.reasm.firstFlags = 0#7 ∧
      (s.reasm.event = .none ∨ s.reasm.event = .dropped ∨ s.reasm.event = .strayFinish)
  started : s.reasm.state ≠ .idle →
    s.reasm.fragCount ≠ 0#8 ∧ flagsValid s.reasm.firstFlags = true ∧ flagsTag s.reasm.firstFlags ≠ tagFinish
  collecting : s.reasm.state = .collecting →
    flagsPartial s.reasm.firstFlags = true ∧
      (s.reasm.event = .started ∨ s.reasm.event = .appended ∨ s.reasm.event = .dropped)
  complete : s.reasm.state = .complete →
    s.reasm.event = .completeSingle ∨ s.reasm.event = .completeFin ∨ s.reasm.event = .ignoredTerminal
  failed : s.reasm.state = .failed →
    s.reasm.event = .failTagMismatch ∨ s.reasm.event = .failOverflow ∨ s.reasm.event = .failProtocol ∨
      s.reasm.event = .ignoredTerminal

/-- The invariant of the machine: it holds after every reset, and every step keeps it. -/
structure Inv (s : State) : Prop where
  legal : s.cfg.legal = true
  memory : MemoryOk s
  status : StatusOk s
  frames : FramesOk s
  decoded : DecodedOk s
  reasm : ReasmOk s

/-- The registers of a state, its buffers emptied. -/
def State.registers (s : State) : State := { s with inBuf := [], outBuf := [], decBuf := [], reasmBuf := [] }

/-- Every register field has its reset value (spec/10_state.md R36); nothing is said of a buffer byte (R32). -/
def RegistersReset (s : State) : Prop :=
  s.registers = { State.resetOf s.cfg with pending := s.pending, response := s.response }

/-- Two states that differ only in stale bytes: IN_BUF at or above LEN, OUT_BUF at or above OUT_LEN, DEC_BUF at or above
LENGTH, REASM_BUF at or above ACC_LEN (spec/70_reset_and_hazards.md R144, spec/10_state.md R32). -/
structure AgreeButStale (s t : State) : Prop where
  registers : s.registers = t.registers
  input : ∀ i, i < s.len.toNat → s.inBuf.read i = t.inBuf.read i
  output : ∀ i, i < s.encResult.outLen.toNat → s.outBuf.read i = t.outBuf.read i
  decoded : ∀ i, i < s.decHdr.length.toNat → s.decBuf.read i = t.decBuf.read i
  accumulated : ∀ i, i < s.accLen.toNat → s.reasmBuf.read i = t.reasmBuf.read i

/-- The host has loaded `bytes` as the raw frame: IN_BUF[0 .. LEN) is `bytes` (spec/42_decoder.md). -/
def HoldsInput (s : State) (bytes : List Byte) : Prop :=
  s.len.toNat = bytes.length ∧ s.inBuf.load 0 bytes.length = bytes

end Sys2Proof.Machine
end

