-- ==== Sys2Proof/Certificates/Slice0/Obligations.lean ====
section
/-! DEFINITION. The statements about the model, each from a numbered rule of spec/ or derived from its sections. -/

open Sys2Proof Sys2Proof.Machine

/-! ## Encoding -/

/-- Decoding the word of a well-formed command gives the command back, every operand at every value. -/
def Obligations.DecodeOfEncodeIsTheCommand : Prop :=
  ∀ i : Instr, i.wf = true → decode (encode i) = .ok i

/-- The decoder reads the used fields and nothing else: w decodes to i exactly when its OP, RSV and used fields are those
of i's word (30_encoding.md R54: a field that the selected command does not use is ignored). -/
def Obligations.DecodeReadsExactlyTheUsedBits : Prop :=
  ∀ (w : Word) (i : Instr), decode w = .ok i ↔ i.wf = true ∧ w &&& usedMask i = encode i

/-- A word decodes to a command of the row with (w & mask) == match; one row or none matches (30_encoding.md R55). -/
def Obligations.DecodeSelectsTheRowThatMatches : Prop :=
  (∀ (w : Word) (i : Instr), decode w = .ok i → w &&& 0xE00000FF#32 = rowMatch i) ∧
  (∀ (w : Word) (i : Instr), w &&& 0xE00000FF#32 = rowMatch i → ∃ j, decode w = .ok j ∧ rowMatch j = rowMatch i) ∧
  (∀ (w : Word), (∀ i, w &&& 0xE00000FF#32 ≠ rowMatch i) → ∃ r, decode w = .error r)

/-- Words written out in 30_encoding.md R68 and 95_test_vectors.md, and what they decode to. -/
def Obligations.WordsWrittenInTheSpecDecode : Prop :=
  decode 0x00000000#32 = .ok .nop ∧
  decode 0x00000001#32 = .ok .crcClear ∧
  decode 0x00003102#32 = .ok (.crcUpdate 0x31#8) ∧
  decode 0x1FFF3102#32 = .ok (.crcUpdate 0x31#8) ∧
  decode 0x00000003#32 = .ok .crcBuf ∧
  decode 0x0A000010#32 = .ok (.enc 2#3 true false) ∧
  decode 0x16000010#32 = .ok (.enc 6#3 false true) ∧
  decode 0x00010711#32 = .ok (.rewriteId 1 0x07#8) ∧
  decode 0x00002A12#32 = .ok (.rewriteAll 0x2A#8) ∧
  decode 0x00FFFF20#32 = .ok .dec ∧
  decode 0x00000030#32 = .ok .reasmReset ∧
  decode 0x00000031#32 = .ok .reasmAccept ∧
  decode 0x20000020#32 = .error .reservedBits ∧
  decode 0x000000FF#32 = .error .reservedOpcode

/-- A reserved word written to CMD raises IllegalCommand and does nothing else; every other word is a command, and it
runs (30_encoding.md R56, 44_control.md R115). -/
def Obligations.ReservedWordsRaiseIllegalCommand : Prop :=
  ∀ (s : State) (w : Word) (rest : List HostEvent),
    s.cfg.legal = true → s.pending = .writeReg 0x00#8 w :: rest →
    let op := w.toNat % 256
    let reserved := w.toNat / 2 ^ 29 ≠ 0 ∨ (0x04 ≤ op ∧ op ≤ 0x0F) ∨ (0x13 ≤ op ∧ op ≤ 0x1F) ∨
      (0x21 ≤ op ∧ op ≤ 0x2F) ∨ (0x32 ≤ op ∧ op ≤ 0xFF)
    (reserved → step s = .next { s with
      pending := rest, cmdWord := w, status := { err := .illegalCommand, reason := .none } }) ∧
    (¬ reserved → ∃ i, i.wf = true ∧ decode w = .ok i ∧
      step s = exec i { s with pending := rest, cmdWord := w })

/-! ## Steps and the host's side

That the host's coming operations wait in `pending` (log entry 3), that the result of a read stands in `response` (log
entry 4) and that the reset event carries the drawn bytes (log entry 8) is the model's form of the interface. -/

/-- A step runs the command that the written word decodes to, in the state with that write taken off the list and the word
in CMD (10_state.md R18). -/
def Obligations.StepRunsTheDecodedCommand : Prop :=
  ∀ (s : State) (w : Word) (i : Instr) (rest : List HostEvent),
    s.cfg.legal = true → s.pending = .writeReg 0x00#8 w :: rest → decode w = .ok i →
    step s = exec i { s with pending := rest, cmdWord := w }

/-- A step is refused if and only if the configuration breaks a constraint of 00_scope.md R6 to R10. R11 says that a model
refuses such a configuration and not at which moment: that every step is refused is the model's choice (log entry 2). -/
def Obligations.IllegalConfigurationIsRefused : Prop :=
  ∀ s : State,
    let m := s.cfg.maxPayload
    let f := s.cfg.maxFragments
    let n := s.cfg.inSize
    (¬ (1 ≤ m ∧ m ≤ 254 ∧ 1 ≤ f ∧ f ≤ 254 ∧ f * m + 1 ≤ n ∧ m + 5 ≤ n ∧ n ≤ 65535 ∧ f * (m + 5) + 5 ≤ 65535) ↔
      step s = .refused .illegalConfiguration)

/-- No host operation and no command faults or hangs: every command and every step of a legal configuration has a next
state (44_control.md R113, 70_reset_and_hazards.md R146). Two clauses are the model's choice: that `exec` answers also in a
state whose configuration is illegal (log entry 16), and that a step with no operation waiting answers the state itself (log
entry 5, read from 60_exceptions.md R134, which speaks of the time between commands and of no step). -/
def Obligations.EveryCommandAndStepCompletes : Prop :=
  (∀ (i : Instr) (s : State), ∃ t, exec i s = .next t) ∧
  (∀ s : State, s.cfg.legal = true → ∃ t, step s = .next t) ∧
  (∀ s : State, s.cfg.legal = true → s.pending = [] → step s = .next s)

/-- What `RD` answers: at every offset, PARAM0 to PARAM3 among them, the register's word (44_control.md R113, 10_state.md R28;
`Obligations.ParamRegistersReadTheConfiguration` says what those four are), and for the registers that hold state that word
field by field (10_state.md R17 to R27); that the read changes nothing of the block, and the numbers of the codes in STATUS and REASM_STATUS (30_encoding.md R64 to R67). That
the answer is kept in `response` is the model's choice (log entry 4). -/
def Obligations.RegisterReadsGiveTheFields : Prop :=
  ([ErrCode.ok, .invalidArgument, .unsupportedType, .outOfMemory, .fragmentLimitExceeded, .malformedFrame,
      .illegalCommand].map ErrCode.code = [0#4, 1#4, 2#4, 3#4, 4#4, 5#4, 6#4]) ∧
  ([FrameReason.none, .truncated, .checksumMismatch, .oversize, .lengthMismatch, .invalidVersion,
      .invalidFlags].map FrameReason.code = [0#4, 1#4, 2#4, 3#4, 4#4, 5#4, 6#4]) ∧
  ([ReasmState.idle, .collecting, .complete, .failed].map ReasmState.code = [0#2, 1#2, 2#2, 3#2]) ∧
  ([ReasmEvent.none, .started, .appended, .completeSingle, .completeFin, .dropped, .strayFinish, .ignoredTerminal,
      .failTagMismatch, .failOverflow, .failProtocol].map ReasmEvent.code =
    [0#4, 1#4, 2#4, 3#4, 4#4, 5#4, 6#4, 7#4, 8#4, 9#4, 10#4]) ∧
  ∀ (s : State) (off : BitVec 8) (rest : List HostEvent),
    s.cfg.legal = true → s.pending = .readReg off :: rest →
    ∃ w : Word, step s = .next { s with pending := rest, response := .word w } ∧
      w = regWord s off ∧
      (off = 0x00#8 → w = s.cmdWord) ∧
      (off = 0x04#8 → w.toNat = s.len.toNat) ∧
      (off = 0x08#8 → w.toNat = s.cfgVersion.toNat) ∧
      (off = 0x0C#8 → w.toNat = s.status.err.code.toNat + 2 ^ 4 * s.status.reason.code.toNat) ∧
      (off = 0x10#8 → w.toNat = s.crcState.toNat + 2 ^ 16 * (crcFinalize s.cfg.crc s.crcState).toNat) ∧
      (off = 0x14#8 → w.toNat = s.encResult.frameCount.toNat + 2 ^ 16 * s.encResult.outLen.toNat) ∧
      (off = 0x18#8 → w.toNat = s.decHdr.flags.toNat + 2 ^ 7 * s.decHdr.version.toNat + 2 ^ 8 * s.decHdr.id.toNat +
        2 ^ 16 * s.decHdr.length.toNat + 2 ^ 24 * s.decHdr.valid.toNat) ∧
      (off = 0x1C#8 → w.toNat = s.decCrc.received.toNat + 2 ^ 16 * s.decCrc.computed.toNat) ∧
      (off = 0x20#8 → w.toNat = s.reasm.state.code.toNat + 2 ^ 4 * s.reasm.event.code.toNat +
        2 ^ 8 * s.reasm.fragCount.toNat + 2 ^ 16 * s.reasm.firstFlags.toNat) ∧
      (off = 0x24#8 → w.toNat = s.accLen.toNat)

/-- PARAM0 to PARAM3 read the configuration, have the stated values in the reference configuration, and no step
changes them (10_state.md R28). -/
def Obligations.ParamRegistersReadTheConfiguration : Prop :=
  (∀ s : State, s.cfg.legal = true →
    (regWord s 0x28#8).toNat = s.cfg.maxPayload + 2 ^ 8 * s.cfg.maxFragments + 2 ^ 16 * s.cfg.inSize ∧
    (regWord s 0x2C#8).toNat = s.cfg.outSize + 2 ^ 16 * s.cfg.reasmSize ∧
    (regWord s 0x30#8).toNat = s.cfg.crc.poly.toNat + 2 ^ 16 * s.cfg.crc.init.toNat ∧
    (regWord s 0x34#8).toNat = s.cfg.crc.refin.toNat + 2 * s.cfg.crc.refout.toNat + 2 ^ 16 * s.cfg.crc.xorout.toNat) ∧
  (∀ s : State, s.cfg = Config.reference →
    regWord s 0x28#8 = 0x080008FA#32 ∧ regWord s 0x2C#8 = 0x07D007FD#32 ∧ regWord s 0x30#8 = 0xFFFF1021#32 ∧
    regWord s 0x34#8 = 0x00000000#32) ∧
  (∀ s t : State, step s = .next t →
    regWord t 0x28#8 = regWord s 0x28#8 ∧ regWord t 0x2C#8 = regWord s 0x2C#8 ∧
    regWord t 0x30#8 = regWord s 0x30#8 ∧ regWord t 0x34#8 = regWord s 0x34#8 ∧ t.cfg = s.cfg)

/-- A reserved or misaligned offset reads 0 and ignores writes (10_state.md R30, 20_memory.md R43). -/
def Obligations.ReservedOffsetsReadZeroAndIgnoreWrites : Prop :=
  ∀ (s : State) (off : BitVec 8) (v : Word) (rest : List HostEvent),
    s.cfg.legal = true → (0x38 ≤ off.toNat ∨ off.toNat % 4 ≠ 0) →
    (s.pending = .readReg off :: rest → step s = .next { s with pending := rest, response := .word 0x00000000#32 }) ∧
    (s.pending = .writeReg off v :: rest → step s = .next { s with pending := rest })

/-- Register writes: a read-only register ignores them, CMD executes a command, LEN and CFG take only their defined
field; reserved bits read 0 (10_state.md R29). -/
def Obligations.RegisterWritesTouchOnlyDefinedFields : Prop :=
  (∀ (s : State) (off : BitVec 8) (v : Word) (rest : List HostEvent),
    s.cfg.legal = true → s.pending = .writeReg off v :: rest →
    (0x0C ≤ off.toNat → step s = .next { s with pending := rest }) ∧
    (off = 0x00#8 → step s = runCommand v { s with pending := rest }) ∧
    (off = 0x04#8 → step s = .next { s with pending := rest, len := BitVec.ofNat 16 (v.toNat % 2 ^ 16) }) ∧
    (off = 0x08#8 → step s = .next { s with pending := rest, cfgVersion := BitVec.ofNat 1 (v.toNat % 2) })) ∧
  (∀ s : State,
    regWord s 0x04#8 &&& 0xFFFF0000#32 = 0#32 ∧ regWord s 0x08#8 &&& 0xFFFFFFFE#32 = 0#32 ∧
    regWord s 0x0C#8 &&& 0xFFFFFF00#32 = 0#32 ∧ regWord s 0x14#8 &&& 0x0000FF00#32 = 0#32 ∧
    regWord s 0x18#8 &&& 0xFE000000#32 = 0#32 ∧ regWord s 0x20#8 &&& 0xFF80000C#32 = 0#32 ∧
    regWord s 0x24#8 &&& 0xFFFF0000#32 = 0#32 ∧ regWord s 0x34#8 &&& 0x0000FFFC#32 = 0#32)

/-- Host accesses to the buffers (20_memory.md R38): a read at or above the size gives 0, a write there has no effect, and
a write to OUT_BUF, DEC_BUF or REASM_BUF has none at any index. -/
def Obligations.HostBufferAccesses : Prop :=
  ∀ (s : State) (i : Nat) (b : Byte) (rest : List HostEvent), s.cfg.legal = true → s.inBuf.wf →
    (∀ sp, s.pending = .readBuf sp i :: rest → ∃ x : Byte,
      step s = .next { s with pending := rest, response := .byte x } ∧
      (bufferSize s.cfg sp ≤ i → x = 0x00#8) ∧ (i < bufferSize s.cfg sp → x = (bufferOf s sp).read i)) ∧
    (s.pending = .writeBuf .inBuf i b :: rest → ∃ t,
      step s = .next t ∧ t = { s with pending := rest, inBuf := t.inBuf } ∧
      (s.cfg.inSize ≤ i → t.inBuf = s.inBuf) ∧ (i < s.cfg.inSize → t.inBuf.read i = b) ∧
      (∀ a, a ≠ i → t.inBuf.read a = s.inBuf.read a)) ∧
    (∀ sp, sp ≠ .inBuf → s.pending = .writeBuf sp i b :: rest → step s = .next { s with pending := rest })

/-- A read returns the last value written (20_memory.md R47): a byte of IN_BUF, LEN, and CMD, which gives back every word,
also one that selects no command (10_state.md R18). -/
def Obligations.ReadReturnsTheLastWrite : Prop :=
  ∀ (s : State) (rest : List HostEvent), s.cfg.legal = true →
    (∀ i b, s.inBuf.wf → i < s.cfg.inSize →
      s.pending = .writeBuf .inBuf i b :: .readBuf .inBuf i :: rest →
      ∃ t, Host.Core.run core 2 s = .next t ∧ t.response = .byte b ∧ t.pending = rest) ∧
    (∀ v : Word, s.pending = .writeReg 0x04#8 v :: .readReg 0x04#8 :: rest →
      ∃ t, Host.Core.run core 2 s = .next t ∧ t.response = .word (v &&& 0x0000FFFF#32) ∧ t.pending = rest) ∧
    (∀ w : Word, s.pending = .writeReg 0x00#8 w :: .readReg 0x00#8 :: rest →
      ∃ t, Host.Core.run core 2 s = .next t ∧ t.response = .word w ∧ t.pending = rest)

/-- The steps of a machine run its host events in their order, one a step (20_memory.md R47: one total order). That the
events wait in a list of the state is the model's choice (log entry 3). -/
def Obligations.StepsRunTheHostEventsInOrder : Prop :=
  ∀ (es rest : List HostEvent) (s : State), s.cfg.legal = true →
    Host.Core.run core es.length { s with pending := es ++ rest } = runEvents es { s with pending := rest }

/-! ## Reset and invariants -/

/-- The reset input sets every register field to its reset value and leaves the configuration (10_state.md R36). The last four
clauses, that each buffer byte is the one the reset event carries, are the model's choice of a form for "unspecified" (log
entry 8; 10_state.md R32). -/
def Obligations.ResetSetsEveryRegister : Prop :=
  ∀ (s : State) (d : Drawn) (rest : List HostEvent), s.cfg.legal = true → s.pending = .reset d :: rest →
    ∃ t, step s = .next t ∧ t.cmdWord = 0#32 ∧ t.len = 0#16 ∧ t.cfgVersion = 0#1 ∧
      t.status = { err := .ok, reason := .none } ∧ t.crcState = s.cfg.crc.init ∧
      t.encResult = { frameCount := 0#8, outLen := 0#16 } ∧
      t.decHdr = { flags := 0#7, version := 0#1, id := 0#8, length := 0#8, valid := false } ∧
      t.decCrc = { received := 0#16, computed := 0#16 } ∧
      t.reasm = { state := .idle, event := .none, fragCount := 0#8, firstFlags := 0#7 } ∧ t.accLen = 0#16 ∧
      t.cfg = s.cfg ∧
      (∀ i (h : i < d.inBuf.length), i < s.cfg.inSize → t.inBuf.read i = d.inBuf[i]) ∧
      (∀ i (h : i < d.outBuf.length), i < s.cfg.outSize → t.outBuf.read i = d.outBuf[i]) ∧
      (∀ i (h : i < d.decBuf.length), i < s.cfg.decSize → t.decBuf.read i = d.decBuf[i]) ∧
      (∀ i (h : i < d.reasmBuf.length), i < s.cfg.reasmSize → t.reasmBuf.read i = d.reasmBuf[i])

/-- What each of the fourteen registers reads right after reset in the reference configuration (10_state.md R36, R28; 00_scope.md R6 to R10).
The reference configuration itself is the model's choice for State.reset (log entry 1). -/
def Obligations.ReadsRightAfterReset : Prop :=
  let s := State.reset
  regWord s 0x00#8 = 0x00000000#32 ∧ regWord s 0x04#8 = 0x00000000#32 ∧ regWord s 0x08#8 = 0x00000000#32 ∧
  regWord s 0x0C#8 = 0x00000000#32 ∧ regWord s 0x10#8 = 0xFFFFFFFF#32 ∧ regWord s 0x14#8 = 0x00000000#32 ∧
  regWord s 0x18#8 = 0x00000000#32 ∧ regWord s 0x1C#8 = 0x00000000#32 ∧ regWord s 0x20#8 = 0x00000000#32 ∧
  regWord s 0x24#8 = 0x00000000#32 ∧ regWord s 0x28#8 = 0x080008FA#32 ∧ regWord s 0x2C#8 = 0x07D007FD#32 ∧
  regWord s 0x30#8 = 0xFFFF1021#32 ∧ regWord s 0x34#8 = 0x00000000#32

/-- The invariant holds right after reset, whatever bytes were drawn and whatever the legal configuration. -/
def Obligations.InvHoldsAfterEveryReset : Prop :=
  Inv State.reset ∧ ∀ (s : State) (d : Drawn), s.cfg.legal = true → Inv (applyReset d s)

/-- Every step keeps the invariant: canonical bounded buffers, no reserved status code, OUT_BUF a list of good frames that
ends at OUT_LEN, DEC_* one checked frame or nothing, FRAG_COUNT <= F and ACC_LEN <= FRAG_COUNT*M. -/
def Obligations.EveryStepKeepsInv : Prop :=
  ∀ s t : State, Inv s → step s = .next t → Inv t

/-! ## Whole-machine rules over all commands -/

/-- Every command writes STATUS; each command raises only its own errors, each on its condition, and DEC each reason on its
condition; REASON is 0 unless ERR is MalformedFrame; reserved codes never appear (30_encoding.md R64 and R65 with their
numbers, 10_state.md R21). -/
def Obligations.StatusAfterEveryCommand : Prop :=
  ([ErrCode.ok, .invalidArgument, .unsupportedType, .outOfMemory, .fragmentLimitExceeded, .malformedFrame,
      .illegalCommand].map ErrCode.code = [0#4, 1#4, 2#4, 3#4, 4#4, 5#4, 6#4]) ∧
  ([FrameReason.none, .truncated, .checksumMismatch, .oversize, .lengthMismatch, .invalidVersion,
      .invalidFlags].map FrameReason.code = [0#4, 1#4, 2#4, 3#4, 4#4, 5#4, 6#4]) ∧
  (∀ (i : Instr) (s t : State), exec i s = .next t → StatusOk t ∧
    let n := s.len.toNat
    match i with
    | .nop => t.status.err = .ok
    | .crcClear => t.status.err = .ok
    | .crcUpdate _ => t.status.err = .ok
    | .crcBuf => t.status.err = .ok ∨ t.status.err = .invalidArgument ∧ s.cfg.inSize < n
    | .enc tag _ _ => t.status.err = .ok ∨ t.status.err = .invalidArgument ∧ s.cfg.inSize < n ∨
        t.status.err = .unsupportedType ∧ n ≤ s.cfg.inSize ∧ (tag = 0#3 ∨ tag = 7#3) ∨
        t.status.err = .fragmentLimitExceeded ∧ n ≤ s.cfg.inSize ∧ tag ≠ 0#3 ∧ tag ≠ 7#3 ∧
          s.cfg.maxFragments * s.cfg.maxPayload < n
    | .rewriteId k _ => t.status.err = .ok ∨ t.status.err = .invalidArgument ∧ s.encResult.frameCount.toNat ≤ k
    | .rewriteAll _ => t.status.err = .ok ∨ t.status.err = .invalidArgument ∧ s.encResult.frameCount = 0#8
    | .dec =>
        let rx := (s.inBuf.read (n - 2)).toNat + 256 * (s.inBuf.read (n - 1)).toNat
        let cc := (checksum s.cfg.crc (s.inBuf.load 0 (n - 2))).toNat
        let len := (s.inBuf.read 2).toNat
        let b0 := (s.inBuf.read 0).toNat
        t.status.err = .ok ∨ t.status.err = .invalidArgument ∧ s.cfg.inSize < n ∨
        t.status.err = .malformedFrame ∧ n ≤ s.cfg.inSize ∧
          (t.status.reason = .truncated ∧ n < 5 ∨
            t.status.reason = .checksumMismatch ∧ 5 ≤ n ∧ rx ≠ cc ∨
            t.status.reason = .oversize ∧ 5 ≤ n ∧ rx = cc ∧ s.cfg.maxPayload < len ∨
            t.status.reason = .lengthMismatch ∧ 5 ≤ n ∧ rx = cc ∧ len ≤ s.cfg.maxPayload ∧ n ≠ len + 5 ∨
            t.status.reason = .invalidFlags ∧ rx = cc ∧ len ≤ s.cfg.maxPayload ∧ n = len + 5 ∧
              (32 ≤ b0 % 128 ∨ b0 % 8 = 0 ∨ b0 % 8 = 7))
    | .reasmReset => t.status.err = .ok
    | .reasmAccept => t.status.err = .ok) ∧
  (∀ (w : Word) (r : DecodeReject) (s t : State), decode w = .error r → runCommand w s = .next t →
    t.status = { err := .illegalCommand, reason := .none })

/-- Which command writes which register and buffer (10_state.md R18 to R27 and the table of R31): no command writes CMD, LEN,
CFG, IN_BUF or the configuration; each of the others has the writers its rule names. -/
def Obligations.EachRegisterHasOnlyItsWriters : Prop :=
  ∀ (i : Instr) (s t : State), exec i s = .next t →
    t.cfg = s.cfg ∧ t.cmdWord = s.cmdWord ∧ t.len = s.len ∧ t.cfgVersion = s.cfgVersion ∧ t.inBuf = s.inBuf ∧
    t.pending = s.pending ∧ t.response = s.response ∧
    (t.crcState ≠ s.crcState → i = .crcClear ∨ (∃ b, i = .crcUpdate b) ∨ i = .crcBuf) ∧
    (t.encResult ≠ s.encResult → ∃ tag a p, i = .enc tag a p) ∧
    (t.outBuf ≠ s.outBuf → (∃ tag a p, i = .enc tag a p) ∨ (∃ k x, i = .rewriteId k x) ∨ ∃ x, i = .rewriteAll x) ∧
    (t.decHdr ≠ s.decHdr → i = .dec ∨ i = .reasmAccept ∧ t.decHdr = { s.decHdr with valid := false }) ∧
    (t.decCrc ≠ s.decCrc → i = .dec) ∧
    (t.decBuf ≠ s.decBuf → i = .dec ∧ t.status.err = .ok) ∧
    (t.reasm ≠ s.reasm → i = .reasmReset ∨ i = .reasmAccept) ∧
    (t.accLen ≠ s.accLen → i = .reasmReset ∨ i = .reasmAccept) ∧
    (t.reasmBuf ≠ s.reasmBuf → i = .reasmAccept)

/-- No result depends on a stale byte (70_reset_and_hazards.md R144, 93_implementation_defined.md I8): two reachable states
that agree but for bytes above LEN, OUT_LEN, LENGTH and ACC_LEN agree so after every command. -/
def Obligations.StaleBytesNeverReachAResult : Prop :=
  ∀ (i : Instr) (s t s' t' : State), Inv s → Inv t → AgreeButStale s t →
    exec i s = .next s' → exec i t = .next t' → AgreeButStale s' t'

/-- The commands that touch no buffer leave every register but those their rule names, and every byte of the four
buffers. -/
def Obligations.RegisterCommandsFrame : Prop :=
  ∀ (i : Instr) (s t : State), exec i s = .next t →
    ((i = .nop → t = { s with status := t.status }) ∧
      (i = .crcClear ∨ (∃ b, i = .crcUpdate b) ∨ i = .crcBuf →
        t = { s with status := t.status, crcState := t.crcState }) ∧
      (i = .reasmReset → t = { s with status := t.status, reasm := t.reasm, accLen := t.accLen })) ∧
    (i = .nop ∨ i = .crcClear ∨ (∃ b, i = .crcUpdate b) ∨ i = .crcBuf ∨ i = .reasmReset →
      ∀ a, t.inBuf.read a = s.inBuf.read a ∧ t.outBuf.read a = s.outBuf.read a ∧
        t.decBuf.read a = s.decBuf.read a ∧ t.reasmBuf.read a = s.reasmBuf.read a)

/-! ## Control and checksum -/

/-- NOP reports success and changes nothing else; every word with OP 0x00 and RSV 0 is one, and CMD.WORD holds it
(44_control.md R114). -/
def Obligations.NopReportsSuccessOnly : Prop :=
  (∀ s : State, exec .nop s = .next { s with status := { err := .ok, reason := .none } }) ∧
  (∀ (s : State) (w : Word) (rest : List HostEvent), s.cfg.legal = true → s.pending = .writeReg 0x00#8 w :: rest →
    w &&& 0xE00000FF#32 = 0x00000000#32 →
    step s = .next { s with pending := rest, cmdWord := w, status := { err := .ok, reason := .none } })

/-- CRC.CLEAR: CRC.STATE is INIT and nothing but STATUS changes beside it; every word with OP 0x01 and RSV 0 is one
(40_crc.md R74). -/
def Obligations.CrcClearSetsInit : Prop :=
  (∀ s : State, exec .crcClear s =
    .next { s with crcState := s.cfg.crc.init, status := { err := .ok, reason := .none } }) ∧
  (∀ w : Word, w &&& 0xE00000FF#32 = 0x00000001#32 → decode w = .ok .crcClear)

/-- CRC.UPDATE (40_crc.md R75) advances CRC.STATE by one byte, bits [15:8] of the word; under every
CRC_PARAMS a state of 0 stays 0 under the byte 0. -/
def Obligations.CrcUpdateAdvancesByOneByte : Prop :=
  (∀ (b : Byte) (s : State), exec (.crcUpdate b) s =
    .next { s with crcState := crcStep s.cfg.crc s.crcState b, status := { err := .ok, reason := .none } }) ∧
  (∀ w : Word, w &&& 0xE00000FF#32 = 0x00000002#32 →
    decode w = .ok (.crcUpdate (BitVec.ofNat 8 (w.toNat / 2 ^ 8 % 2 ^ 8)))) ∧
  (∀ p : CrcParams, crcStep p 0x0000#16 0x00#8 = 0x0000#16) ∧
  crcStep CrcParams.ccittFalse 0xFFFF#16 0x00#8 = 0xE1F0#16 ∧
  crcStep CrcParams.ccittFalse 0xFFFF#16 0x31#8 = 0xC782#16

/-- CRC.BUF (40_crc.md R76): LEN > IN_SIZE leaves CRC.STATE and raises InvalidArgument; otherwise CRC.STATE is the raw CRC of
IN_BUF[0 .. LEN) from INIT, and CRC.RESULT reads its checksum. -/
def Obligations.CrcBufChecksumsTheInput : Prop :=
  (∀ w : Word, w &&& 0xE00000FF#32 = 0x00000003#32 → decode w = .ok .crcBuf) ∧
  ∀ s : State,
    (s.cfg.inSize < s.len.toNat →
      exec .crcBuf s = .next { s with status := { err := .invalidArgument, reason := .none } }) ∧
    (s.len.toNat ≤ s.cfg.inSize → ∃ t, exec .crcBuf s = .next t ∧
      t = { s with
        crcState := crcRaw s.cfg.crc s.cfg.crc.init (s.inBuf.load 0 s.len.toNat)
        status := { err := .ok, reason := .none } } ∧
      (regWord t 0x10#8).extractLsb' 16 16 = checksum s.cfg.crc (s.inBuf.load 0 s.len.toNat) ∧
      (s.len = 0#16 → t.crcState = s.cfg.crc.init))

/-- CRC.RESULT always reads finalize(CRC.STATE), the state itself by default; only the three CRC commands write CRC.STATE;
host writes are ignored; reset gives INIT (10_state.md R22). -/
def Obligations.CrcRegisterHoldsTheAccumulator : Prop :=
  (∀ s : State, (regWord s 0x10#8).extractLsb' 0 16 = s.crcState ∧
    (regWord s 0x10#8).extractLsb' 16 16 = crcFinalize s.cfg.crc s.crcState ∧
    (s.cfg.crc = CrcParams.ccittFalse → (regWord s 0x10#8).extractLsb' 16 16 = s.crcState)) ∧
  (∀ (i : Instr) (s t : State), exec i s = .next t → i ≠ .crcClear → (∀ b, i ≠ .crcUpdate b) → i ≠ .crcBuf →
    t.crcState = s.crcState) ∧
  (∀ (s t : State) (v : Word), writeRegister 0x10#8 v s = .next t → t = s) ∧
  (∀ (s : State) (d : Drawn), (applyReset d s).crcState = s.cfg.crc.init)

/-- crc_raw is affine over GF(2) for every CRC_PARAMS (40_crc.md R73). -/
def Obligations.CrcRawIsAffine : Prop :=
  ∀ (p : CrcParams) (s0 : Half) (m e : List Byte), m.length = e.length →
    crcRaw p s0 (List.zipWith (· ^^^ ·) m e) = crcRaw p s0 m ^^^ crcRaw p 0x0000#16 e

/-- CRC.CLEAR and then CRC.UPDATE of each byte, with any commands but CRC commands between them, leaves CRC.STATE =
crc_raw(INIT, bytes) and CRC.RESULT the checksum, which is what CRC.BUF gives for the same bytes (40_crc.md R77). -/
def Obligations.CrcUpdatesEqualCrcBuf : Prop :=
  ∀ (s : State) (cs : List Instr), (∀ i ∈ cs, i.wf = true ∧ i ≠ .crcClear ∧ i ≠ .crcBuf) →
    let bytes := cs.filterMap (fun i => match i with
      | .crcUpdate b => some b
      | _ => none)
    ∃ t, runLines (.command .crcClear :: cs.map .command) s = .next t ∧
      t.crcState = crcRaw s.cfg.crc s.cfg.crc.init bytes ∧
      (regWord t 0x10#8).extractLsb' 16 16 = checksum s.cfg.crc bytes ∧
      ∀ u, u.cfg = s.cfg → HoldsInput u bytes → u.len.toNat ≤ u.cfg.inSize →
        ∃ v, exec .crcBuf u = .next v ∧ v.crcState = t.crcState

/-- With the default parameters two byte sequences that differ in exactly one bit have different checksums, at every
length (40_crc.md R73). -/
def Obligations.CrcTellsEverySingleBitApart : Prop :=
  ∀ (before after : List Byte) (b : Byte) (j : Nat), j < 8 →
    checksum CrcParams.ccittFalse (before ++ b :: after) ≠
      checksum CrcParams.ccittFalse (before ++ (b ^^^ (1#8 <<< j)) :: after)

/-! ## Encoder -/

/-- The errors of ENC in their order: LEN > IN_SIZE, then TAG 0 or 7, then more than F fragments (L > F*M); each sets
ENC_RESULT to 0 and leaves OUT_BUF unchanged (60_exceptions.md R119, R121, R124). -/
def Obligations.EncReportsItsErrorsInOrder : Prop :=
  ∀ (s : State) (tag : BitVec 3) (ack part : Bool), s.cfg.legal = true →
    let failed := fun (e : ErrCode) => { s with
      encResult := { frameCount := 0#8, outLen := 0#16 }, status := { err := e, reason := .none } }
    (s.cfg.inSize < s.len.toNat → exec (.enc tag ack part) s = .next (failed .invalidArgument)) ∧
    (s.len.toNat ≤ s.cfg.inSize → tag = 0#3 ∨ tag = 7#3 →
      exec (.enc tag ack part) s = .next (failed .unsupportedType)) ∧
    (s.len.toNat ≤ s.cfg.inSize → tag ≠ 0#3 → tag ≠ 7#3 → s.cfg.maxFragments * s.cfg.maxPayload < s.len.toNat →
      exec (.enc tag ack part) s = .next (failed .fragmentLimitExceeded))

/-- A successful ENC writes the owed frames back to back from index 0, FRAME_COUNT and OUT_LEN, and nothing else; bytes at
or above OUT_LEN keep their values (41_encoder.md R78 to R83). -/
def Obligations.EncWritesTheOwedFrames : Prop :=
  ∀ (s : State) (tag : BitVec 3) (ack part : Bool), s.cfg.legal = true → s.outBuf.wf → EncReady s tag →
    let frames := owedFrames s tag ack part
    ∃ t, exec (.enc tag ack part) s = .next t ∧
      t = { s with
        outBuf := t.outBuf
        encResult := { frameCount := BitVec.ofNat 8 frames.length, outLen := BitVec.ofNat 16 frames.flatten.length }
        status := { err := .ok, reason := .none } } ∧
      t.outBuf.load 0 frames.flatten.length = frames.flatten ∧
      ∀ a, frames.flatten.length ≤ a → t.outBuf.read a = s.outBuf.read a

/-- FRAME_COUNT and OUT_LEN of a successful ENC, K = ceil(L/M), and OUT_LEN <= OUT_SIZE (41_encoder.md R84). -/
def Obligations.EncFrameCountAndOutLen : Prop :=
  ∀ (s : State) (tag : BitVec 3) (ack part : Bool), s.cfg.legal = true → EncReady s tag →
    let len := s.len.toNat
    let m := s.cfg.maxPayload
    ∃ t, exec (.enc tag ack part) s = .next t ∧ t.status.err = .ok ∧
      (len < m → t.encResult.frameCount.toNat = 1 ∧ t.encResult.outLen.toNat = len + 5) ∧
      (∀ k, m ≤ len → len ≤ k * m → (∀ q, len ≤ q * m → k ≤ q) →
        (tag.toNat ≠ 3 → t.encResult.frameCount.toNat = k + 1 ∧ t.encResult.outLen.toNat = len + 5 * k + 5) ∧
        (tag.toNat = 3 → t.encResult.frameCount.toNat = k ∧ t.encResult.outLen.toNat = len + 5 * k)) ∧
      t.encResult.outLen.toNat ≤ s.cfg.outSize

/-- Frame k of OUT_BUF after a successful ENC is the k-th owed frame, and off(FRAME_COUNT) = OUT_LEN (41_encoder.md R79). -/
def Obligations.EncFramesStandBackToBack : Prop :=
  ∀ (s : State) (tag : BitVec 3) (ack part : Bool), s.cfg.legal = true → s.outBuf.wf → EncReady s tag →
    ∃ t, exec (.enc tag ack part) s = .next t ∧
      frameOffset t.outBuf t.encResult.frameCount.toNat = t.encResult.outLen.toNat ∧
      (List.range t.encResult.frameCount.toNat).map (frameBytes t.outBuf) = owedFrames s tag ack part

/-- ENC touches STATUS, ENC_RESULT and OUT_BUF[0 .. OUT_LEN) and nothing else; on an error OUT_LEN is 0, so no byte. -/
def Obligations.EncFrame : Prop :=
  ∀ (s t : State) (tag : BitVec 3) (ack part : Bool), s.cfg.legal = true → exec (.enc tag ack part) s = .next t →
    t = { s with status := t.status, encResult := t.encResult, outBuf := t.outBuf } ∧
    (∀ a, t.encResult.outLen.toNat ≤ a → t.outBuf.read a = s.outBuf.read a) ∧
    (t.status.err ≠ .ok → t.encResult = { frameCount := 0#8, outLen := 0#16 }) ∧
    ∀ a, t.inBuf.read a = s.inBuf.read a ∧ t.decBuf.read a = s.decBuf.read a ∧ t.reasmBuf.read a = s.reasmBuf.read a

/-! ## Identifier rewrite -/

/-- REWRITE.ID (41_encoder.md R85): no such frame raises InvalidArgument and changes nothing; otherwise the id byte is the new
id, the checksum bytes hold the checksum of the frame's other bytes, low byte first, and no other byte changes. -/
def Obligations.RewriteIdRewritesOneFrame : Prop :=
  ∀ (s : State) (k : Nat) (x : Byte),
    (s.encResult.frameCount.toNat ≤ k →
      exec (.rewriteId k x) s = .next { s with status := { err := .invalidArgument, reason := .none } }) ∧
    (Inv s → k < s.encResult.frameCount.toNat →
      let o := frameOffset s.outBuf k
      let n := (s.outBuf.read (o + 2)).toNat
      ∃ t, exec (.rewriteId k x) s = .next t ∧
        t = { s with outBuf := t.outBuf, status := { err := .ok, reason := .none } } ∧
        t.outBuf.read (o + 1) = x ∧
        (t.outBuf.read (o + 3 + n)).toNat + 256 * (t.outBuf.read (o + 4 + n)).toNat =
          (checksum s.cfg.crc (t.outBuf.load o (3 + n))).toNat ∧
        ∀ a, a ≠ o + 1 → a ≠ o + 3 + n → a ≠ o + 4 + n → t.outBuf.read a = s.outBuf.read a)

/-- REWRITE.ALL (41_encoder.md R86): with no frame InvalidArgument; otherwise the result of FRAME_COUNT successive REWRITE.ID
commands with the same id. -/
def Obligations.RewriteAllIsRepeatedRewriteId : Prop :=
  (∀ w : Word, w &&& 0xE00000FF#32 = 0x00000012#32 →
    decode w = .ok (.rewriteAll (BitVec.ofNat 8 (w.toNat / 2 ^ 8 % 2 ^ 8)))) ∧
  ∀ (s : State) (x : Byte),
    (s.encResult.frameCount = 0#8 →
      exec (.rewriteAll x) s = .next { s with status := { err := .invalidArgument, reason := .none } }) ∧
    (s.encResult.frameCount ≠ 0#8 →
      (∃ t, exec (.rewriteAll x) s = .next t ∧ t.status = { err := .ok, reason := .none }) ∧
      exec (.rewriteAll x) s =
        (List.range s.encResult.frameCount.toNat).foldl (fun (r : Result) k => match r with
          | .next t => exec (.rewriteId k x) t
          | .fault e => .fault e
          | .refused e => .refused e) (.next s))

/-- REWRITE.ALL gives every frame the new id and a right checksum, and changes nothing else in any frame
(41_encoder.md R86). -/
def Obligations.RewriteAllRenamesEveryFrame : Prop :=
  ∀ (s : State) (x : Byte), Inv s → s.encResult.frameCount ≠ 0#8 →
    ∃ t, exec (.rewriteAll x) s = .next t ∧
      t = { s with outBuf := t.outBuf, status := { err := .ok, reason := .none } } ∧
      ∀ k, k < s.encResult.frameCount.toNat → ∀ (v : Bit) (f : FrameFlags) (old : Byte) (payload : List Byte),
        payload.length ≤ s.cfg.maxPayload → frameBytes s.outBuf k = wireFrame s.cfg.crc v f old payload →
        frameBytes t.outBuf k = wireFrame s.cfg.crc v f x payload

/-- Rewriting a frame with the id it already has leaves the state as it was, but for STATUS (41_encoder.md R85). -/
def Obligations.RewriteWithSameIdChangesNothing : Prop :=
  ∀ (s : State) (k : Nat), Inv s → k < s.encResult.frameCount.toNat →
    exec (.rewriteId k (s.outBuf.read (frameOffset s.outBuf k + 1))) s =
      .next { s with status := { err := .ok, reason := .none } }

/-- After REWRITE.ID k, x or REWRITE.ALL x, frame k decodes with ID = x and otherwise as before, the payload too
(41_encoder.md R87): `u` holds frame k as it was, `u'` as it is. -/
def Obligations.RewrittenFrameDecodesWithTheNewId : Prop :=
  ∀ (s : State) (k : Nat) (x : Byte) (i : Instr), Inv s → k < s.encResult.frameCount.toNat →
    i = .rewriteId k x ∨ i = .rewriteAll x →
    ∃ t, exec i s = .next t ∧ ∀ u u' : State, u.cfg = s.cfg → u'.cfg = s.cfg →
      HoldsInput u (frameBytes s.outBuf k) → HoldsInput u' (frameBytes t.outBuf k) →
      ∃ v v', exec .dec u = .next v ∧ exec .dec u' = .next v' ∧ v.status.err = .ok ∧ v'.status.err = .ok ∧
        v'.decHdr = { v.decHdr with id := x } ∧
        (u.decBuf.wf → u'.decBuf.wf → ∀ a, a < v.decHdr.length.toNat → v'.decBuf.read a = v.decBuf.read a)

/-- The rewrites touch STATUS and OUT_BUF alone, and of OUT_BUF only the id byte and the two checksum bytes of the frames they
name. -/
def Obligations.RewriteFrame : Prop :=
  (∀ (s t : State) (k : Nat) (x : Byte), exec (.rewriteId k x) s = .next t →
    t = { s with status := t.status, outBuf := t.outBuf } ∧
    (∀ a, a ≠ frameOffset s.outBuf k + 1 → a ≠ frameOffset s.outBuf k + 3 + frameLength s.outBuf k →
      a ≠ frameOffset s.outBuf k + 4 + frameLength s.outBuf k → t.outBuf.read a = s.outBuf.read a) ∧
    (t.status.err ≠ .ok → t.outBuf = s.outBuf)) ∧
  (∀ (s t : State) (x : Byte), exec (.rewriteAll x) s = .next t →
    t = { s with status := t.status, outBuf := t.outBuf } ∧
    (∀ a, (∀ k, k < s.encResult.frameCount.toNat → a ≠ frameOffset s.outBuf k + 1 ∧
        a ≠ frameOffset s.outBuf k + 3 + frameLength s.outBuf k ∧
        a ≠ frameOffset s.outBuf k + 4 + frameLength s.outBuf k) → t.outBuf.read a = s.outBuf.read a) ∧
    (t.status.err ≠ .ok → t.outBuf = s.outBuf))

/-! ## Decoder -/

/-- DEC reports the first check that fails, in the order of 42_decoder.md R91, with DEC_HDR and DEC_CRC cleared (R89) and nothing
else changed; it never reports InvalidVersion. -/
def Obligations.DecReportsTheFirstFailingCheck : Prop :=
  ∀ s : State,
    let n := s.len.toNat
    let rx := (s.inBuf.read (n - 2)).toNat + 256 * (s.inBuf.read (n - 1)).toNat
    let cc := (checksum s.cfg.crc (s.inBuf.load 0 (n - 2))).toNat
    let len := (s.inBuf.read 2).toNat
    let b0 := (s.inBuf.read 0).toNat
    let failed := fun (e : ErrCode) (r : FrameReason) => { s with
      decHdr := { flags := 0#7, version := 0#1, id := 0#8, length := 0#8, valid := false }
      decCrc := { received := 0#16, computed := 0#16 }
      status := { err := e, reason := r } }
    (s.cfg.inSize < n → exec .dec s = .next (failed .invalidArgument .none)) ∧
    (n ≤ s.cfg.inSize → n < 5 → exec .dec s = .next (failed .malformedFrame .truncated)) ∧
    (n ≤ s.cfg.inSize → 5 ≤ n → rx ≠ cc → exec .dec s = .next (failed .malformedFrame .checksumMismatch)) ∧
    (n ≤ s.cfg.inSize → 5 ≤ n → rx = cc → s.cfg.maxPayload < len →
      exec .dec s = .next (failed .malformedFrame .oversize)) ∧
    (n ≤ s.cfg.inSize → 5 ≤ n → rx = cc → len ≤ s.cfg.maxPayload → n ≠ len + 5 →
      exec .dec s = .next (failed .malformedFrame .lengthMismatch)) ∧
    (n ≤ s.cfg.inSize → 5 ≤ n → rx = cc → len ≤ s.cfg.maxPayload → n = len + 5 →
      (32 ≤ b0 % 128 ∨ b0 % 8 = 0 ∨ b0 % 8 = 7) → exec .dec s = .next (failed .malformedFrame .invalidFlags)) ∧
    (∀ t, exec .dec s = .next t → t.status.reason ≠ .invalidVersion)

/-- A raw frame that passes every check is copied to DEC_BUF and reported in DEC_HDR and DEC_CRC, VALID set
(42_decoder.md R98). -/
def Obligations.DecHoldsTheDecodedFrame : Prop :=
  ∀ s : State,
    let n := s.len.toNat
    let rx := (s.inBuf.read (n - 2)).toNat + 256 * (s.inBuf.read (n - 1)).toNat
    let cc := (checksum s.cfg.crc (s.inBuf.load 0 (n - 2))).toNat
    let len := (s.inBuf.read 2).toNat
    let b0 := (s.inBuf.read 0).toNat
    n ≤ s.cfg.inSize → 5 ≤ n → rx = cc → len ≤ s.cfg.maxPayload → n = len + 5 → b0 % 128 < 32 → b0 % 8 ≠ 0 →
    b0 % 8 ≠ 7 → s.decBuf.wf →
    ∃ t, exec .dec s = .next t ∧
      t = { s with
        decHdr := t.decHdr, decCrc := t.decCrc, decBuf := t.decBuf, status := { err := .ok, reason := .none } } ∧
      t.decHdr.flags.toNat = b0 % 128 ∧ t.decHdr.version.toNat = b0 / 128 ∧ t.decHdr.id = s.inBuf.read 1 ∧
      t.decHdr.length = s.inBuf.read 2 ∧ t.decHdr.valid = true ∧
      t.decCrc.received.toNat = rx ∧ t.decCrc.computed.toNat = cc ∧ t.decCrc.received = t.decCrc.computed ∧
      (∀ i, i < len → t.decBuf.read i = s.inBuf.read (3 + i)) ∧
      (∀ i, len ≤ i → t.decBuf.read i = s.decBuf.read i)

/-- DEC touches STATUS, DEC_HDR, DEC_CRC and DEC_BUF[0 .. LENGTH) and nothing else; on an error LENGTH is 0, so no byte. -/
def Obligations.DecFrame : Prop :=
  ∀ s t : State, exec .dec s = .next t →
    t = { s with status := t.status, decHdr := t.decHdr, decCrc := t.decCrc, decBuf := t.decBuf } ∧
    (∀ a, t.decHdr.length.toNat ≤ a → t.decBuf.read a = s.decBuf.read a) ∧
    (t.status.err ≠ .ok → t.decBuf = s.decBuf ∧ t.decHdr.length = 0#8 ∧ t.decHdr.valid = false) ∧
    ∀ a, t.inBuf.read a = s.inBuf.read a ∧ t.outBuf.read a = s.outBuf.read a ∧ t.reasmBuf.read a = s.reasmBuf.read a

/-- DEC is a function of the configuration, LEN and IN_BUF[0 .. LEN): whatever else two states hold, they get the same result
(42_decoder.md R88). -/
def Obligations.DecIsAPureFunctionOfItsInput : Prop :=
  ∀ s t s' t' : State, s.cfg = t.cfg → s.len = t.len →
    (∀ i, i < s.len.toNat → s.inBuf.read i = t.inBuf.read i) → s.decBuf.wf → t.decBuf.wf →
    exec .dec s = .next s' → exec .dec t = .next t' →
    s'.status = t'.status ∧ s'.decHdr = t'.decHdr ∧ s'.decCrc = t'.decCrc ∧
    ∀ i, i < s'.decHdr.length.toNat → s'.decBuf.read i = t'.decBuf.read i

/-- The decoder accepts exactly the frames the encoder's format makes: DEC succeeds if and only if IN_BUF[0 .. LEN) is a wire
frame with at most M payload bytes, valid flags and the right checksum (41_encoder.md R78, 42_decoder.md R90). -/
def Obligations.DecAcceptsExactlyTheWireFrames : Prop :=
  ∀ s t : State, s.cfg.legal = true → exec .dec s = .next t →
    (t.status.err = .ok ↔ s.len.toNat ≤ s.cfg.inSize ∧ WireFrameOk s.cfg (s.inBuf.load 0 s.len.toNat))

/-- With the default CRC_PARAMS: flip exactly one bit of a frame on which DEC succeeds and keep LEN, and DEC fails with
ChecksumMismatch, with certainty (42_decoder.md R100). -/
def Obligations.DecRejectsEverySingleBitFlip : Prop :=
  ∀ (s t : State) (i j : Nat), s.cfg.crc = CrcParams.ccittFalse → s.inBuf.wf →
    exec .dec s = .next t → t.status.err = .ok → i < s.len.toNat → j < 8 →
    ∃ t', exec .dec { s with inBuf := s.inBuf.write i (s.inBuf.read i ^^^ (1#8 <<< j)) } = .next t' ∧
      t'.status = { err := .malformedFrame, reason := .checksumMismatch }

/-- Round trip (42_decoder.md R101): ENC with L < M, its frame 0 in another state's IN_BUF, DEC there. Each frame of a fragmented
ENC decodes in the same way: fragment k to the command's flags with PARTIAL and to the bytes of the payload from k*M, the
sentinel behind them to FINISH with PARTIAL and no payload. -/
def Obligations.EncodedFramesDecode : Prop :=
  ∀ (s : State) (tag : BitVec 3) (ack part : Bool), Inv s → EncReady s tag →
    ∃ t, exec (.enc tag ack part) s = .next t ∧ t.status.err = .ok ∧
      (s.len.toNat < s.cfg.maxPayload → ∀ u : State, u.cfg = s.cfg → u.decBuf.wf →
        HoldsInput u (frameBytes t.outBuf 0) →
        u.len.toNat = s.len.toNat + 5 ∧ ∃ v, exec .dec u = .next v ∧ v.status.err = .ok ∧
          v.decHdr.flags.toNat = tag.toNat + 8 * ack.toNat + 16 * part.toNat ∧ v.decHdr.version = s.cfgVersion ∧
          v.decHdr.id = 0x00#8 ∧ v.decHdr.length.toNat = s.len.toNat ∧
          v.decBuf.load 0 s.len.toNat = s.inBuf.load 0 s.len.toNat) ∧
      (∀ k, k < t.encResult.frameCount.toNat → ∀ u : State, u.cfg = s.cfg →
        HoldsInput u (frameBytes t.outBuf k) →
        ∃ v, exec .dec u = .next v ∧ v.status.err = .ok ∧ v.decHdr.version = s.cfgVersion ∧ v.decHdr.id = 0x00#8 ∧
          (s.cfg.maxPayload ≤ s.len.toNat → flagsPartial v.decHdr.flags = true ∧
            (k * s.cfg.maxPayload < s.len.toNat →
              let size := min s.cfg.maxPayload (s.len.toNat - k * s.cfg.maxPayload)
              v.decHdr.flags.toNat = tag.toNat + 8 * ack.toNat + 16 ∧ v.decHdr.length.toNat = size ∧
              (u.decBuf.wf → v.decBuf.load 0 size = s.inBuf.load (k * s.cfg.maxPayload) size)) ∧
            (s.len.toNat ≤ k * s.cfg.maxPayload →
              v.decHdr.flags.toNat = 3 + 8 * ack.toNat + 16 ∧ v.decHdr.length.toNat = 0)))

/-! ## Reassembly -/

/-- REASM.RESET (43_reassembly.md R104): Idle, no event, no fragments, no bytes; REASM_BUF and DEC_HDR unchanged. -/
def Obligations.ReasmResetStartsAFreshInstance : Prop :=
  (∀ s : State, exec .reasmReset s = .next { s with
    reasm := { state := .idle, event := .none, fragCount := 0#8, firstFlags := 0#7 }
    accLen := 0#16
    status := { err := .ok, reason := .none } }) ∧
  (∀ w : Word, w &&& 0xE00000FF#32 = 0x00000030#32 → decode w = .ok .reasmReset)

/-- REASM.ACCEPT of a valid frame in Idle (43_reassembly.md R106): a FINISH frame starts nothing; any other starts a message
with its payload at the start of REASM_BUF, Complete at once without PARTIAL, Collecting with it. -/
def Obligations.AcceptFromIdle : Prop :=
  ∀ s : State, Inv s → s.reasm.state = .idle → s.decHdr.valid = true →
    (s.decHdr.flags.toNat % 8 = 3 → exec .reasmAccept s = .next { s with
      decHdr := { s.decHdr with valid := false }
      reasm := { s.reasm with event := .strayFinish }
      status := { err := .ok, reason := .none } }) ∧
    (s.decHdr.flags.toNat % 8 ≠ 3 → ∃ t, exec .reasmAccept s = .next t ∧
      t = { s with
        decHdr := { s.decHdr with valid := false }
        reasm := { state := if s.decHdr.flags.getLsbD 4 then .collecting else .complete
                   event := if s.decHdr.flags.getLsbD 4 then .started else .completeSingle
                   fragCount := 1#8
                   firstFlags := s.decHdr.flags }
        accLen := t.accLen, reasmBuf := t.reasmBuf, status := { err := .ok, reason := .none } } ∧
      t.accLen.toNat = s.decHdr.length.toNat ∧
      (∀ i, i < s.decHdr.length.toNat → t.reasmBuf.read i = s.decBuf.read i) ∧
      (∀ i, s.decHdr.length.toNat ≤ i → t.reasmBuf.read i = s.reasmBuf.read i))

/-- REASM.ACCEPT of a valid frame while Collecting (43_reassembly.md R107): an empty FINISH completes; the message's tag with
PARTIAL is appended while FRAG_COUNT < F; every other frame fails the message, in the order of the tests. -/
def Obligations.AcceptFromCollecting : Prop :=
  ∀ s : State, Inv s → s.reasm.state = .collecting → s.decHdr.valid = true →
    let tag := s.decHdr.flags.toNat % 8
    let ends := fun (st : ReasmState) (e : ReasmEvent) => { s with
      decHdr := { s.decHdr with valid := false }
      reasm := { s.reasm with state := st, event := e }
      status := { err := .ok, reason := .none } }
    (tag = 3 → s.decHdr.length ≠ 0#8 → exec .reasmAccept s = .next (ends .failed .failProtocol)) ∧
    (tag = 3 → s.decHdr.length = 0#8 → exec .reasmAccept s = .next (ends .complete .completeFin)) ∧
    (tag ≠ 3 → tag ≠ s.reasm.firstFlags.toNat % 8 → exec .reasmAccept s = .next (ends .failed .failTagMismatch)) ∧
    (tag ≠ 3 → tag = s.reasm.firstFlags.toNat % 8 → s.decHdr.flags.getLsbD 4 = false →
      exec .reasmAccept s = .next (ends .failed .failProtocol)) ∧
    (tag ≠ 3 → tag = s.reasm.firstFlags.toNat % 8 → s.decHdr.flags.getLsbD 4 = true →
      s.reasm.fragCount.toNat = s.cfg.maxFragments → exec .reasmAccept s = .next (ends .failed .failOverflow)) ∧
    (tag ≠ 3 → tag = s.reasm.firstFlags.toNat % 8 → s.decHdr.flags.getLsbD 4 = true →
      s.reasm.fragCount.toNat < s.cfg.maxFragments → ∃ t, exec .reasmAccept s = .next t ∧
        t = { s with
          decHdr := { s.decHdr with valid := false }
          reasm := { s.reasm with event := .appended, fragCount := t.reasm.fragCount }
          accLen := t.accLen, reasmBuf := t.reasmBuf, status := { err := .ok, reason := .none } } ∧
        t.reasm.fragCount.toNat = s.reasm.fragCount.toNat + 1 ∧
        t.accLen.toNat = s.accLen.toNat + s.decHdr.length.toNat ∧
        (∀ i, i < s.decHdr.length.toNat → t.reasmBuf.read (s.accLen.toNat + i) = s.decBuf.read i) ∧
        (∀ i, i < s.accLen.toNat ∨ s.accLen.toNat + s.decHdr.length.toNat ≤ i →
          t.reasmBuf.read i = s.reasmBuf.read i))

/-- REASM.ACCEPT in Complete or Failed changes only EVENT and VALID; with no valid frame it is DROPPED and the state stays
(43_reassembly.md R108, R109). -/
def Obligations.AcceptIgnoredOrDropped : Prop :=
  ∀ s : State,
    let only := fun (e : ReasmEvent) => { s with
      decHdr := { s.decHdr with valid := false }
      reasm := { s.reasm with event := e }
      status := { err := .ok, reason := .none } }
    (s.reasm.state = .complete ∨ s.reasm.state = .failed →
      exec .reasmAccept s = .next (only .ignoredTerminal)) ∧
    (s.reasm.state = .idle ∨ s.reasm.state = .collecting → s.decHdr.valid = false →
      exec .reasmAccept s = .next (only .dropped))

/-- Complete and Failed are left only by REASM.RESET or the reset input (43_reassembly.md R104, R109;
93_implementation_defined.md I21): any other host operation keeps the state, the count and the accumulated bytes. -/
def Obligations.TerminalStatesAreLeftOnlyByReset : Prop :=
  ∀ s t : State, s.reasm.state = .complete ∨ s.reasm.state = .failed → step s = .next t →
    (∀ w rest, s.pending = .writeReg 0x00#8 w :: rest → decode w ≠ .ok .reasmReset) →
    (∀ d rest, s.pending ≠ .reset d :: rest) →
    t.reasm.state = s.reasm.state ∧ t.reasm.fragCount = s.reasm.fragCount ∧
    t.reasm.firstFlags = s.reasm.firstFlags ∧ t.accLen = s.accLen ∧ t.reasmBuf = s.reasmBuf

/-- Reassembly never looks at the id, the version bit or the ACK bit (43_reassembly.md R110). -/
def Obligations.AcceptIgnoresIdVersionAndAck : Prop :=
  (∀ (s t : State) (x : Byte) (v : Bit), exec .reasmAccept s = .next t →
    exec .reasmAccept { s with decHdr := { s.decHdr with id := x, version := v } } =
      .next { t with decHdr := { t.decHdr with id := x, version := v } }) ∧
  (∀ s t t' : State, exec .reasmAccept s = .next t →
    exec .reasmAccept { s with decHdr := { s.decHdr with flags := s.decHdr.flags ^^^ 0x08#7 } } = .next t' →
    t'.reasm.state = t.reasm.state ∧ t'.reasm.event = t.reasm.event ∧ t'.reasm.fragCount = t.reasm.fragCount ∧
    t'.accLen = t.accLen ∧ t'.reasmBuf = t.reasmBuf)

/-- REASM.ACCEPT touches STATUS, VALID, REASM_STATUS, REASM_LEN and the bytes it appends to REASM_BUF: LENGTH bytes at ACC_LEN
(at 0 from Idle), and none unless the event says that a payload was appended. -/
def Obligations.AcceptFrame : Prop :=
  ∀ s t : State, exec .reasmAccept s = .next t →
    t = { s with
      status := t.status, decHdr := { s.decHdr with valid := false }, reasm := t.reasm, accLen := t.accLen,
      reasmBuf := t.reasmBuf } ∧
    (let base := if s.reasm.state = .idle then 0 else s.accLen.toNat
     ∀ a, a < base ∨ base + s.decHdr.length.toNat ≤ a → t.reasmBuf.read a = s.reasmBuf.read a) ∧
    (t.reasm.event ≠ .started → t.reasm.event ≠ .appended → t.reasm.event ≠ .completeSingle →
      t.reasmBuf = s.reasmBuf ∧ t.accLen = s.accLen ∧ t.reasm.fragCount = s.reasm.fragCount ∧
        t.reasm.firstFlags = s.reasm.firstFlags) ∧
    ∀ a, t.inBuf.read a = s.inBuf.read a ∧ t.outBuf.read a = s.outBuf.read a ∧ t.decBuf.read a = s.decBuf.read a

/-- LOADIN and COPYOUT (30_encoding.md R69) make IN_BUF[0 .. LEN) the loaded bytes, and the frame that was copied; the bytes of
IN_BUF above them and all else of the block stay. How COPYOUT is expanded is the model's choice (log entry 13), and so is that
its reads leave their answers in `response` (log entry 4). -/
def Obligations.LoadInAndCopyOutHoldTheirBytes : Prop :=
  (∀ (s : State) (bytes : List Byte), s.cfg.legal = true → s.inBuf.wf → bytes.length ≤ s.cfg.inSize →
    ∃ t, runEvents (expand s (.loadIn bytes)) s = .next t ∧ HoldsInput t bytes ∧
      t = { s with inBuf := t.inBuf, len := t.len } ∧
      ∀ a, bytes.length ≤ a → t.inBuf.read a = s.inBuf.read a) ∧
  (∀ (s : State) (k : Nat), Inv s → k < s.encResult.frameCount.toNat →
    ∃ t, runEvents (expand s (.copyOut k)) s = .next t ∧ HoldsInput t (frameBytes s.outBuf k) ∧
      t = { s with inBuf := t.inBuf, len := t.len, response := t.response } ∧
      ∀ a, (frameBytes s.outBuf k).length ≤ a → t.inBuf.read a = s.inBuf.read a)

/-- The fragmented round trip (43_reassembly.md R111): ENC with M <= L and a tag other than FINISH, then REASM.RESET and, for every
frame, COPYOUT, DEC, REASM.ACCEPT, ends Complete with the original bytes in REASM_BUF. -/
def Obligations.FragmentedMessageReassembles : Prop :=
  ∀ (s : State) (tag : BitVec 3) (ack part : Bool), Inv s → EncReady s tag → tag.toNat ≠ 3 →
    s.cfg.maxPayload ≤ s.len.toNat →
    ∃ t u, exec (.enc tag ack part) s = .next t ∧
      runLines (.command .reasmReset ::
        (List.range t.encResult.frameCount.toNat).flatMap (fun k => [.copyOut k, .decAcc])) t = .next u ∧
      u.reasm.state = .complete ∧ u.reasm.event = .completeFin ∧
      u.reasm.fragCount.toNat + 1 = t.encResult.frameCount.toNat ∧
      u.reasm.firstFlags.toNat = tag.toNat + 16 + 8 * ack.toNat ∧
      u.accLen = s.len ∧ u.reasmBuf.load 0 s.len.toNat = s.inBuf.load 0 s.len.toNat

/-- The same after any REWRITE.ID and REWRITE.ALL commands between ENC and the reassembly, since ids are ignored
(43_reassembly.md R111, R110). -/
def Obligations.RewrittenMessageReassembles : Prop :=
  ∀ (s : State) (tag : BitVec 3) (ack part : Bool) (rs : List Instr), Inv s → EncReady s tag → tag.toNat ≠ 3 →
    s.cfg.maxPayload ≤ s.len.toNat → (∀ i ∈ rs, i.wf = true ∧ ((∃ k x, i = .rewriteId k x) ∨ ∃ x, i = .rewriteAll x)) →
    ∃ t u, runLines (.command (.enc tag ack part) :: rs.map .command) s = .next t ∧
      runLines (.command .reasmReset ::
        (List.range t.encResult.frameCount.toNat).flatMap (fun k => [.copyOut k, .decAcc])) t = .next u ∧
      u.reasm.state = .complete ∧ u.reasm.event = .completeFin ∧
      u.reasm.fragCount.toNat + 1 = t.encResult.frameCount.toNat ∧
      u.reasm.firstFlags.toNat = tag.toNat + 16 + 8 * ack.toNat ∧
      u.accLen = s.len ∧ u.reasmBuf.load 0 s.len.toNat = s.inBuf.load 0 s.len.toNat

/-- A message encoded with TAG = FINISH cannot be reassembled (43_reassembly.md R112): each of its frames, fed to an accumulator in
Idle, is reported STRAY_FINISH and leaves Idle. -/
def Obligations.FinishTaggedMessageNeverStarts : Prop :=
  ∀ (s : State) (ack part : Bool), Inv s → EncReady s tagFinish →
    ∃ t, exec (.enc tagFinish ack part) s = .next t ∧ ∀ k, k < t.encResult.frameCount.toNat →
      ∀ u : State, u.cfg = s.cfg → u.reasm.state = .idle → HoldsInput u (frameBytes t.outBuf k) →
      ∃ v w, exec .dec u = .next v ∧ exec .reasmAccept v = .next w ∧ w.reasm.state = .idle ∧
        w.reasm.event = .strayFinish ∧ w.reasmBuf = u.reasmBuf ∧ w.accLen = u.accLen
end

