-- ==== Sys2Proof/Laws/Codec.lean ====
section
/-! SUPPORT. The fields of a command word built by `commandWord`, and the range of the decoder's operands. -/

namespace Sys2Proof

variable (part ack : Bool) (tag : BitVec 3) (idx imm8 op : Byte)

@[simp] theorem opField_commandWord : opField (commandWord part ack tag idx imm8 op) = op := by
  unfold opField commandWord; ext i hi; simp; grind

@[simp] theorem imm8Field_commandWord : imm8Field (commandWord part ack tag idx imm8 op) = imm8 := by
  unfold imm8Field commandWord; ext i hi; simp; grind

@[simp] theorem idxField_commandWord : idxField (commandWord part ack tag idx imm8 op) = idx := by
  unfold idxField commandWord; ext i hi; simp; grind

@[simp] theorem tagField_commandWord : tagField (commandWord part ack tag idx imm8 op) = tag := by
  unfold tagField commandWord; ext i hi; simp; grind

@[simp] theorem ackField_commandWord : ackField (commandWord part ack tag idx imm8 op) = ack := by
  simp only [ackField, commandWord, BitVec.getLsbD_append, BitVec.getLsbD_ofBool]; simp

@[simp] theorem partField_commandWord : partField (commandWord part ack tag idx imm8 op) = part := by
  simp only [partField, commandWord, BitVec.getLsbD_append, BitVec.getLsbD_ofBool]; simp

@[simp] theorem rsvField_commandWord : rsvField (commandWord part ack tag idx imm8 op) = 0#3 := by
  unfold rsvField commandWord; ext i hi; simp; grind

/-- A word whose RSV bits are 0 decodes by its OP alone. -/
theorem decode_of_rsv_zero {w : Word} (h : rsvField w = 0#3) : decode w = decodeOp (opField w) w := by
  simp [decode, h]

/-- The mask of spec/30_encoding.md R55 keeps OP. -/
theorem opField_and_rowMask (w : Word) : opField (w &&& rowMask) = opField w := by
  unfold opField rowMask; ext i hi; interval_cases i <;> simp

/-- The mask of spec/30_encoding.md R55 keeps RSV. -/
theorem rsvField_and_rowMask (w : Word) : rsvField (w &&& rowMask) = rsvField w := by
  unfold rsvField rowMask; ext i hi; interval_cases i <;> simp

/-- A word whose masked bits are `m`, RSV among them 0, decodes by the OP of `m`. -/
theorem decode_of_masked {w m : Word} (h : w &&& rowMask = m) (hm : rsvField m = 0#3) :
    decode w = decodeOp (opField m) w := by
  rw [← h, rsvField_and_rowMask] at hm
  rw [decode_of_rsv_zero hm, ← h, opField_and_rowMask]

/-- The frame index the decoder reads is a byte. -/
theorem idxField_lt (w : Word) : (idxField w).toNat < 256 := (idxField w).isLt

end Sys2Proof
end

