-- ==== Sys2Proof/Laws/Memory.lean ====
section
/-! SUPPORT. What the memory operations do: read after write, the canonical form and the bounds they keep, and
that canonical memories which read alike are equal. -/

namespace Sys2Proof.Machine.Memory

variable {m m' : Memory} {size i j n : Nat} {b : Byte} {bs : List Byte}

@[simp] theorem read_nil (i : Nat) : read [] i = unlisted := rfl

theorem read_cons (c : Host.Cell) (m : Memory) (i : Nat) :
    read (c :: m) i = if c.1 = i then c.2 else read m i := rfl

/-- An address below every listed one is not listed. -/
theorem read_of_lt (m : Memory) (i : Nat) (h : ∀ c ∈ m, i < c.1) : read m i = unlisted := by
  induction m with
  | nil => rfl
  | cons c m ih =>
    have hc : i < c.1 := h c (by simp)
    rw [read_cons, if_neg (by omega), ih (fun d hd => h d (by simp [hd]))]

theorem wf_nil : wf [] := by simp [wf]

theorem wf_cons {c : Host.Cell} :
    wf (c :: m) ↔ (∀ d ∈ m, c.1 < d.1) ∧ c.2 ≠ unlisted ∧ wf m := by
  simp only [wf, List.pairwise_cons, List.mem_cons, forall_eq_or_imp]
  tauto

/-- Reading at another address is untouched by a write. -/
@[simp] theorem read_write_ne (m : Memory) (b : Byte) (h : i ≠ j) : read (write m i b) j = read m j := by
  induction m with
  | nil => by_cases hb : b = unlisted <;> simp [write, hb, read_cons, h]
  | cons c m ih =>
    simp only [write]
    split_ifs with h1 h2 h3 h4
    · rfl
    · simp [read_cons, h]
    · subst h3; simp [read_cons, h]
    · subst h3; simp [read_cons, h]
    · simp [read_cons, ih]

/-- A write is read back. -/
@[simp] theorem read_write_self (m : Memory) (i : Nat) (b : Byte) (hm : wf m) : read (write m i b) i = b := by
  induction m with
  | nil => by_cases hb : b = unlisted <;> simp [write, hb, read_cons]
  | cons c m ih =>
    obtain ⟨hlt, -, hm'⟩ := wf_cons.mp hm
    simp only [write]
    split_ifs with h1 h2 h3 h4
    · subst h2
      exact read_of_lt _ _ (by simp only [List.mem_cons, forall_eq_or_imp]; exact ⟨h1, fun d hd => by have := hlt d hd; omega⟩)
    · simp [read_cons]
    · subst h3 h4; exact read_of_lt _ _ hlt
    · simp [read_cons]
    · simp [read_cons, ih hm', Ne.symm h3]

theorem read_write (m : Memory) (i j : Nat) (b : Byte) (hm : wf m) :
    read (write m i b) j = if i = j then b else read m j := by
  split_ifs with h
  · subst h; exact read_write_self m i b hm
  · exact read_write_ne m b h

/-- A write lists nothing below both the written address and what was listed. -/
theorem mem_write {c : Host.Cell} (h : c ∈ write m i b) : c = (i, b) ∨ c ∈ m := by
  induction m with
  | nil =>
    simp only [write] at h
    split_ifs at h <;> simp_all
  | cons d m ih =>
    simp only [write] at h
    split_ifs at h
    · exact .inr h
    · simpa using h
    · exact .inr (by simp [h])
    · rcases List.mem_cons.mp h with h | h
      · exact .inl h
      · exact .inr (by simp [h])
    · rcases List.mem_cons.mp h with h | h
      · exact .inr (by simp [h])
      · rcases ih h with h | h
        · exact .inl h
        · exact .inr (by simp [h])

/-- A write keeps the canonical form. -/
theorem wf_write (m : Memory) (i : Nat) (b : Byte) (hm : wf m) : wf (write m i b) := by
  induction m with
  | nil => by_cases hb : b = unlisted <;> simp [write, hb, wf]
  | cons c m ih =>
    obtain ⟨hlt, hc, hm'⟩ := wf_cons.mp hm
    simp only [write]
    split_ifs with h1 h2 h3 h4
    · exact hm
    · refine wf_cons.mpr ⟨?_, h2, hm⟩
      simp only [List.mem_cons, forall_eq_or_imp]
      exact ⟨h1, fun d hd => by have := hlt d hd; omega⟩
    · exact hm'
    · exact wf_cons.mpr ⟨fun d hd => by have := hlt d hd; simpa [h3] using this, h4, hm'⟩
    · refine wf_cons.mpr ⟨fun d hd => ?_, hc, ih hm'⟩
      rcases mem_write hd with rfl | hd
      · simp only; omega
      · exact hlt d hd

/-- A write below the size keeps the bound. -/
theorem within_write (hm : within m size) (hi : i < size) : within (write m i b) size := by
  intro c hc
  rcases mem_write hc with rfl | hc
  · exact hi
  · exact hm c hc

/-- Canonical memories that read alike at every address are equal. -/
theorem ext_read (hm : wf m) (hm' : wf m') (h : ∀ i, read m i = read m' i) : m = m' := by
  induction m generalizing m' with
  | nil =>
    cases m' with
    | nil => rfl
    | cons d m' =>
      have := h d.1
      simp only [read_nil, read_cons, if_true] at this
      exact absurd this.symm (wf_cons.mp hm').2.1
  | cons c m ih =>
    obtain ⟨hlt, hc, hmt⟩ := wf_cons.mp hm
    cases m' with
    | nil =>
      have := h c.1
      simp only [read_nil, read_cons, if_true] at this
      exact absurd this hc
    | cons d m' =>
      obtain ⟨hlt', hd, hmt'⟩ := wf_cons.mp hm'
      have key : c.1 = d.1 := by
        rcases Nat.lt_trichotomy c.1 d.1 with hl | he | hg
        · have := h c.1
          rw [read_cons, if_pos rfl, read_of_lt (d :: m') c.1 (by
            simp only [List.mem_cons, forall_eq_or_imp]
            exact ⟨hl, fun e he => by have := hlt' e he; omega⟩)] at this
          exact absurd this hc
        · exact he
        · have := h d.1
          rw [read_cons d, if_pos rfl, read_of_lt (c :: m) d.1 (by
            simp only [List.mem_cons, forall_eq_or_imp]
            exact ⟨hg, fun e he => by have := hlt e he; omega⟩)] at this
          exact absurd this.symm hd
      have val : c.2 = d.2 := by
        have := h c.1
        rwa [read_cons, if_pos rfl, read_cons, if_pos key.symm] at this
      have rest : m = m' := by
        refine ih hmt hmt' fun i => ?_
        by_cases hi : i = c.1
        · subst hi
          rw [read_of_lt m _ hlt, read_of_lt m' _ (by rw [key]; exact hlt')]
        · have := h i
          rwa [read_cons, if_neg (Ne.symm hi), read_cons, if_neg (by rw [← key]; exact Ne.symm hi)] at this
      rw [rest, Prod.ext key val]

/-- Beyond the bound every address reads as unlisted. -/
theorem read_of_within (hm : within m size) (hi : size ≤ i) : read m i = unlisted := by
  induction m with
  | nil => rfl
  | cons c m ih =>
    have hc : c.1 < size := hm c (by simp)
    rw [read_cons, if_neg (by omega), ih (fun d hd => hm d (by simp [hd]))]

/-! `store`: a bounded write. -/

theorem wf_store (hm : wf m) : wf (store size m i b) := by
  unfold store
  split_ifs
  · exact wf_write m i b hm
  · exact hm

theorem within_store (hm : within m size) : within (store size m i b) size := by
  unfold store
  split_ifs with hi
  · exact within_write hm hi
  · exact hm

@[simp] theorem read_store_ne (h : i ≠ j) : read (store size m i b) j = read m j := by
  unfold store
  split_ifs
  · exact read_write_ne m b h
  · rfl

theorem read_store_self (hm : wf m) (hi : i < size) : read (store size m i b) i = b := by
  rw [store, if_pos hi, read_write_self m i b hm]

/-! `storeBytes`: a run of bounded writes. -/

@[simp] theorem storeBytes_nil (size : Nat) (m : Memory) (i : Nat) : storeBytes size m i [] = m := rfl

theorem storeBytes_cons (size : Nat) (m : Memory) (i : Nat) (b : Byte) (bs : List Byte) :
    storeBytes size m i (b :: bs) = storeBytes size (store size m i b) (i + 1) bs := rfl

theorem wf_storeBytes (bs : List Byte) : ∀ (m : Memory) (i : Nat), wf m → wf (storeBytes size m i bs) := by
  induction bs with
  | nil => intro m i hm; exact hm
  | cons b bs ih => intro m i hm; exact ih _ _ (wf_store hm)

theorem within_storeBytes (bs : List Byte) :
    ∀ (m : Memory) (i : Nat), within m size → within (storeBytes size m i bs) size := by
  induction bs with
  | nil => intro m i hm; exact hm
  | cons b bs ih => intro m i hm; exact ih _ _ (within_store hm)

/-- Outside the stored run every byte is as before. -/
theorem read_storeBytes_outside (bs : List Byte) :
    ∀ (m : Memory) (i : Nat), j < i ∨ i + bs.length ≤ j → read (storeBytes size m i bs) j = read m j := by
  induction bs with
  | nil => intro m i _; rfl
  | cons b bs ih =>
    intro m i h
    simp only [List.length_cons] at h
    rw [storeBytes_cons, ih _ _ (by omega), read_store_ne (by omega)]

/-- Inside the stored run, and below the size, the stored byte is read back. -/
theorem read_storeBytes_inside (bs : List Byte) :
    ∀ (m : Memory) (i k : Nat) (hk : k < bs.length), wf m → i + k < size →
      read (storeBytes size m i bs) (i + k) = bs[k] := by
  induction bs with
  | nil => intro m i k hk; simp at hk
  | cons b bs ih =>
    intro m i k hk hm hs
    rw [storeBytes_cons]
    cases k with
    | zero =>
      have h : read (storeBytes size (store size m i b) (i + 1) bs) i = b := by
        rw [read_storeBytes_outside bs _ _ (by omega), read_store_self hm (by omega)]
      exact h
    | succ k =>
      have := ih (store size m i b) (i + 1) k (by simpa using hk) (wf_store hm) (by omega)
      rw [show i + (k + 1) = i + 1 + k by omega, this]
      rfl

/-! `load`: a run of reads. -/

@[simp] theorem load_zero (m : Memory) (i : Nat) : load m i 0 = [] := rfl

theorem load_succ (m : Memory) (i n : Nat) : load m i (n + 1) = read m i :: load m (i + 1) n := rfl

@[simp] theorem length_load (m : Memory) : ∀ i n, (load m i n).length = n := by
  intro i n
  induction n generalizing i with
  | zero => rfl
  | succ n ih => simp [load_succ, ih]

theorem getElem_load (m : Memory) (i n k : Nat) (hk : k < (load m i n).length) :
    (load m i n)[k] = read m (i + k) := by
  induction n generalizing i k with
  | zero => simp at hk
  | succ n ih =>
    cases k with
    | zero => rfl
    | succ k =>
      have := ih (i + 1) k (by simpa [load_succ] using hk)
      simpa [load_succ, show i + 1 + k = i + (k + 1) by omega] using this

theorem load_add (m : Memory) (i n k : Nat) : load m i (n + k) = load m i n ++ load m (i + n) k := by
  induction n generalizing i with
  | zero => simp
  | succ n ih =>
    rw [show n + 1 + k = n + k + 1 by omega, load_succ, ih, load_succ, List.cons_append,
      show i + 1 + n = i + (n + 1) by omega]

/-- Memories that read alike on a run load alike. -/
theorem load_congr (h : ∀ k, k < n → read m (i + k) = read m' (i + k)) : load m i n = load m' i n := by
  induction n generalizing i with
  | zero => rfl
  | succ n ih =>
    rw [load_succ, load_succ, ih (fun k hk => ?_), show read m i = read m' i by simpa using h 0 (by omega)]
    have := h (k + 1) (by omega)
    simpa [show i + (k + 1) = i + 1 + k by omega] using this

/-- Loading what was just stored. -/
theorem load_storeBytes_self (hm : wf m) (hs : i + bs.length ≤ size) :
    load (storeBytes size m i bs) i bs.length = bs := by
  refine List.ext_getElem (by simp) fun k hk hk' => ?_
  rw [getElem_load, read_storeBytes_inside bs m i k hk' hm (by omega)]

/-- A run apart from the stored one loads as before. -/
theorem load_storeBytes_apart (h : j + n ≤ i ∨ i + bs.length ≤ j) :
    load (storeBytes size m i bs) j n = load m j n :=
  load_congr fun k hk => read_storeBytes_outside bs m i (by omega)

theorem wf_ofDrawn (size : Nat) (drawn : List Byte) : wf (ofDrawn size drawn) :=
  wf_storeBytes drawn [] 0 wf_nil

theorem within_ofDrawn (size : Nat) (drawn : List Byte) : within (ofDrawn size drawn) size :=
  within_storeBytes drawn [] 0 (by simp [within])

end Sys2Proof.Machine.Memory
end

