-- ==== Sys2Proof/Laws/State.lean ====
section
/-! SUPPORT. For each register or buffer update, what it does to every field of State: one lemma per field per
update, true by rfl. -/

namespace Sys2Proof.Machine.State

section setCmdWord
variable (s : State) (v : Word)
@[simp] theorem setCmdWord_cfg : (s.setCmdWord v).cfg = s.cfg := rfl
@[simp] theorem setCmdWord_cmdWord : (s.setCmdWord v).cmdWord = v := rfl
@[simp] theorem setCmdWord_len : (s.setCmdWord v).len = s.len := rfl
@[simp] theorem setCmdWord_cfgVersion : (s.setCmdWord v).cfgVersion = s.cfgVersion := rfl
@[simp] theorem setCmdWord_status : (s.setCmdWord v).status = s.status := rfl
@[simp] theorem setCmdWord_crcState : (s.setCmdWord v).crcState = s.crcState := rfl
@[simp] theorem setCmdWord_encResult : (s.setCmdWord v).encResult = s.encResult := rfl
@[simp] theorem setCmdWord_decHdr : (s.setCmdWord v).decHdr = s.decHdr := rfl
@[simp] theorem setCmdWord_decCrc : (s.setCmdWord v).decCrc = s.decCrc := rfl
@[simp] theorem setCmdWord_reasm : (s.setCmdWord v).reasm = s.reasm := rfl
@[simp] theorem setCmdWord_accLen : (s.setCmdWord v).accLen = s.accLen := rfl
@[simp] theorem setCmdWord_inBuf : (s.setCmdWord v).inBuf = s.inBuf := rfl
@[simp] theorem setCmdWord_outBuf : (s.setCmdWord v).outBuf = s.outBuf := rfl
@[simp] theorem setCmdWord_decBuf : (s.setCmdWord v).decBuf = s.decBuf := rfl
@[simp] theorem setCmdWord_reasmBuf : (s.setCmdWord v).reasmBuf = s.reasmBuf := rfl
@[simp] theorem setCmdWord_pending : (s.setCmdWord v).pending = s.pending := rfl
@[simp] theorem setCmdWord_response : (s.setCmdWord v).response = s.response := rfl
end setCmdWord

section setLen
variable (s : State) (v : Half)
@[simp] theorem setLen_cfg : (s.setLen v).cfg = s.cfg := rfl
@[simp] theorem setLen_cmdWord : (s.setLen v).cmdWord = s.cmdWord := rfl
@[simp] theorem setLen_len : (s.setLen v).len = v := rfl
@[simp] theorem setLen_cfgVersion : (s.setLen v).cfgVersion = s.cfgVersion := rfl
@[simp] theorem setLen_status : (s.setLen v).status = s.status := rfl
@[simp] theorem setLen_crcState : (s.setLen v).crcState = s.crcState := rfl
@[simp] theorem setLen_encResult : (s.setLen v).encResult = s.encResult := rfl
@[simp] theorem setLen_decHdr : (s.setLen v).decHdr = s.decHdr := rfl
@[simp] theorem setLen_decCrc : (s.setLen v).decCrc = s.decCrc := rfl
@[simp] theorem setLen_reasm : (s.setLen v).reasm = s.reasm := rfl
@[simp] theorem setLen_accLen : (s.setLen v).accLen = s.accLen := rfl
@[simp] theorem setLen_inBuf : (s.setLen v).inBuf = s.inBuf := rfl
@[simp] theorem setLen_outBuf : (s.setLen v).outBuf = s.outBuf := rfl
@[simp] theorem setLen_decBuf : (s.setLen v).decBuf = s.decBuf := rfl
@[simp] theorem setLen_reasmBuf : (s.setLen v).reasmBuf = s.reasmBuf := rfl
@[simp] theorem setLen_pending : (s.setLen v).pending = s.pending := rfl
@[simp] theorem setLen_response : (s.setLen v).response = s.response := rfl
end setLen

section setCfgVersion
variable (s : State) (v : Bit)
@[simp] theorem setCfgVersion_cfg : (s.setCfgVersion v).cfg = s.cfg := rfl
@[simp] theorem setCfgVersion_cmdWord : (s.setCfgVersion v).cmdWord = s.cmdWord := rfl
@[simp] theorem setCfgVersion_len : (s.setCfgVersion v).len = s.len := rfl
@[simp] theorem setCfgVersion_cfgVersion : (s.setCfgVersion v).cfgVersion = v := rfl
@[simp] theorem setCfgVersion_status : (s.setCfgVersion v).status = s.status := rfl
@[simp] theorem setCfgVersion_crcState : (s.setCfgVersion v).crcState = s.crcState := rfl
@[simp] theorem setCfgVersion_encResult : (s.setCfgVersion v).encResult = s.encResult := rfl
@[simp] theorem setCfgVersion_decHdr : (s.setCfgVersion v).decHdr = s.decHdr := rfl
@[simp] theorem setCfgVersion_decCrc : (s.setCfgVersion v).decCrc = s.decCrc := rfl
@[simp] theorem setCfgVersion_reasm : (s.setCfgVersion v).reasm = s.reasm := rfl
@[simp] theorem setCfgVersion_accLen : (s.setCfgVersion v).accLen = s.accLen := rfl
@[simp] theorem setCfgVersion_inBuf : (s.setCfgVersion v).inBuf = s.inBuf := rfl
@[simp] theorem setCfgVersion_outBuf : (s.setCfgVersion v).outBuf = s.outBuf := rfl
@[simp] theorem setCfgVersion_decBuf : (s.setCfgVersion v).decBuf = s.decBuf := rfl
@[simp] theorem setCfgVersion_reasmBuf : (s.setCfgVersion v).reasmBuf = s.reasmBuf := rfl
@[simp] theorem setCfgVersion_pending : (s.setCfgVersion v).pending = s.pending := rfl
@[simp] theorem setCfgVersion_response : (s.setCfgVersion v).response = s.response := rfl
end setCfgVersion

section setStatus
variable (s : State) (v : StatusReg)
@[simp] theorem setStatus_cfg : (s.setStatus v).cfg = s.cfg := rfl
@[simp] theorem setStatus_cmdWord : (s.setStatus v).cmdWord = s.cmdWord := rfl
@[simp] theorem setStatus_len : (s.setStatus v).len = s.len := rfl
@[simp] theorem setStatus_cfgVersion : (s.setStatus v).cfgVersion = s.cfgVersion := rfl
@[simp] theorem setStatus_status : (s.setStatus v).status = v := rfl
@[simp] theorem setStatus_crcState : (s.setStatus v).crcState = s.crcState := rfl
@[simp] theorem setStatus_encResult : (s.setStatus v).encResult = s.encResult := rfl
@[simp] theorem setStatus_decHdr : (s.setStatus v).decHdr = s.decHdr := rfl
@[simp] theorem setStatus_decCrc : (s.setStatus v).decCrc = s.decCrc := rfl
@[simp] theorem setStatus_reasm : (s.setStatus v).reasm = s.reasm := rfl
@[simp] theorem setStatus_accLen : (s.setStatus v).accLen = s.accLen := rfl
@[simp] theorem setStatus_inBuf : (s.setStatus v).inBuf = s.inBuf := rfl
@[simp] theorem setStatus_outBuf : (s.setStatus v).outBuf = s.outBuf := rfl
@[simp] theorem setStatus_decBuf : (s.setStatus v).decBuf = s.decBuf := rfl
@[simp] theorem setStatus_reasmBuf : (s.setStatus v).reasmBuf = s.reasmBuf := rfl
@[simp] theorem setStatus_pending : (s.setStatus v).pending = s.pending := rfl
@[simp] theorem setStatus_response : (s.setStatus v).response = s.response := rfl
end setStatus

section setCrcState
variable (s : State) (v : Half)
@[simp] theorem setCrcState_cfg : (s.setCrcState v).cfg = s.cfg := rfl
@[simp] theorem setCrcState_cmdWord : (s.setCrcState v).cmdWord = s.cmdWord := rfl
@[simp] theorem setCrcState_len : (s.setCrcState v).len = s.len := rfl
@[simp] theorem setCrcState_cfgVersion : (s.setCrcState v).cfgVersion = s.cfgVersion := rfl
@[simp] theorem setCrcState_status : (s.setCrcState v).status = s.status := rfl
@[simp] theorem setCrcState_crcState : (s.setCrcState v).crcState = v := rfl
@[simp] theorem setCrcState_encResult : (s.setCrcState v).encResult = s.encResult := rfl
@[simp] theorem setCrcState_decHdr : (s.setCrcState v).decHdr = s.decHdr := rfl
@[simp] theorem setCrcState_decCrc : (s.setCrcState v).decCrc = s.decCrc := rfl
@[simp] theorem setCrcState_reasm : (s.setCrcState v).reasm = s.reasm := rfl
@[simp] theorem setCrcState_accLen : (s.setCrcState v).accLen = s.accLen := rfl
@[simp] theorem setCrcState_inBuf : (s.setCrcState v).inBuf = s.inBuf := rfl
@[simp] theorem setCrcState_outBuf : (s.setCrcState v).outBuf = s.outBuf := rfl
@[simp] theorem setCrcState_decBuf : (s.setCrcState v).decBuf = s.decBuf := rfl
@[simp] theorem setCrcState_reasmBuf : (s.setCrcState v).reasmBuf = s.reasmBuf := rfl
@[simp] theorem setCrcState_pending : (s.setCrcState v).pending = s.pending := rfl
@[simp] theorem setCrcState_response : (s.setCrcState v).response = s.response := rfl
end setCrcState

section setEncResult
variable (s : State) (v : EncResultReg)
@[simp] theorem setEncResult_cfg : (s.setEncResult v).cfg = s.cfg := rfl
@[simp] theorem setEncResult_cmdWord : (s.setEncResult v).cmdWord = s.cmdWord := rfl
@[simp] theorem setEncResult_len : (s.setEncResult v).len = s.len := rfl
@[simp] theorem setEncResult_cfgVersion : (s.setEncResult v).cfgVersion = s.cfgVersion := rfl
@[simp] theorem setEncResult_status : (s.setEncResult v).status = s.status := rfl
@[simp] theorem setEncResult_crcState : (s.setEncResult v).crcState = s.crcState := rfl
@[simp] theorem setEncResult_encResult : (s.setEncResult v).encResult = v := rfl
@[simp] theorem setEncResult_decHdr : (s.setEncResult v).decHdr = s.decHdr := rfl
@[simp] theorem setEncResult_decCrc : (s.setEncResult v).decCrc = s.decCrc := rfl
@[simp] theorem setEncResult_reasm : (s.setEncResult v).reasm = s.reasm := rfl
@[simp] theorem setEncResult_accLen : (s.setEncResult v).accLen = s.accLen := rfl
@[simp] theorem setEncResult_inBuf : (s.setEncResult v).inBuf = s.inBuf := rfl
@[simp] theorem setEncResult_outBuf : (s.setEncResult v).outBuf = s.outBuf := rfl
@[simp] theorem setEncResult_decBuf : (s.setEncResult v).decBuf = s.decBuf := rfl
@[simp] theorem setEncResult_reasmBuf : (s.setEncResult v).reasmBuf = s.reasmBuf := rfl
@[simp] theorem setEncResult_pending : (s.setEncResult v).pending = s.pending := rfl
@[simp] theorem setEncResult_response : (s.setEncResult v).response = s.response := rfl
end setEncResult

section setDecHdr
variable (s : State) (v : DecHdrReg)
@[simp] theorem setDecHdr_cfg : (s.setDecHdr v).cfg = s.cfg := rfl
@[simp] theorem setDecHdr_cmdWord : (s.setDecHdr v).cmdWord = s.cmdWord := rfl
@[simp] theorem setDecHdr_len : (s.setDecHdr v).len = s.len := rfl
@[simp] theorem setDecHdr_cfgVersion : (s.setDecHdr v).cfgVersion = s.cfgVersion := rfl
@[simp] theorem setDecHdr_status : (s.setDecHdr v).status = s.status := rfl
@[simp] theorem setDecHdr_crcState : (s.setDecHdr v).crcState = s.crcState := rfl
@[simp] theorem setDecHdr_encResult : (s.setDecHdr v).encResult = s.encResult := rfl
@[simp] theorem setDecHdr_decHdr : (s.setDecHdr v).decHdr = v := rfl
@[simp] theorem setDecHdr_decCrc : (s.setDecHdr v).decCrc = s.decCrc := rfl
@[simp] theorem setDecHdr_reasm : (s.setDecHdr v).reasm = s.reasm := rfl
@[simp] theorem setDecHdr_accLen : (s.setDecHdr v).accLen = s.accLen := rfl
@[simp] theorem setDecHdr_inBuf : (s.setDecHdr v).inBuf = s.inBuf := rfl
@[simp] theorem setDecHdr_outBuf : (s.setDecHdr v).outBuf = s.outBuf := rfl
@[simp] theorem setDecHdr_decBuf : (s.setDecHdr v).decBuf = s.decBuf := rfl
@[simp] theorem setDecHdr_reasmBuf : (s.setDecHdr v).reasmBuf = s.reasmBuf := rfl
@[simp] theorem setDecHdr_pending : (s.setDecHdr v).pending = s.pending := rfl
@[simp] theorem setDecHdr_response : (s.setDecHdr v).response = s.response := rfl
end setDecHdr

section setDecCrc
variable (s : State) (v : DecCrcReg)
@[simp] theorem setDecCrc_cfg : (s.setDecCrc v).cfg = s.cfg := rfl
@[simp] theorem setDecCrc_cmdWord : (s.setDecCrc v).cmdWord = s.cmdWord := rfl
@[simp] theorem setDecCrc_len : (s.setDecCrc v).len = s.len := rfl
@[simp] theorem setDecCrc_cfgVersion : (s.setDecCrc v).cfgVersion = s.cfgVersion := rfl
@[simp] theorem setDecCrc_status : (s.setDecCrc v).status = s.status := rfl
@[simp] theorem setDecCrc_crcState : (s.setDecCrc v).crcState = s.crcState := rfl
@[simp] theorem setDecCrc_encResult : (s.setDecCrc v).encResult = s.encResult := rfl
@[simp] theorem setDecCrc_decHdr : (s.setDecCrc v).decHdr = s.decHdr := rfl
@[simp] theorem setDecCrc_decCrc : (s.setDecCrc v).decCrc = v := rfl
@[simp] theorem setDecCrc_reasm : (s.setDecCrc v).reasm = s.reasm := rfl
@[simp] theorem setDecCrc_accLen : (s.setDecCrc v).accLen = s.accLen := rfl
@[simp] theorem setDecCrc_inBuf : (s.setDecCrc v).inBuf = s.inBuf := rfl
@[simp] theorem setDecCrc_outBuf : (s.setDecCrc v).outBuf = s.outBuf := rfl
@[simp] theorem setDecCrc_decBuf : (s.setDecCrc v).decBuf = s.decBuf := rfl
@[simp] theorem setDecCrc_reasmBuf : (s.setDecCrc v).reasmBuf = s.reasmBuf := rfl
@[simp] theorem setDecCrc_pending : (s.setDecCrc v).pending = s.pending := rfl
@[simp] theorem setDecCrc_response : (s.setDecCrc v).response = s.response := rfl
end setDecCrc

section setReasm
variable (s : State) (v : ReasmReg)
@[simp] theorem setReasm_cfg : (s.setReasm v).cfg = s.cfg := rfl
@[simp] theorem setReasm_cmdWord : (s.setReasm v).cmdWord = s.cmdWord := rfl
@[simp] theorem setReasm_len : (s.setReasm v).len = s.len := rfl
@[simp] theorem setReasm_cfgVersion : (s.setReasm v).cfgVersion = s.cfgVersion := rfl
@[simp] theorem setReasm_status : (s.setReasm v).status = s.status := rfl
@[simp] theorem setReasm_crcState : (s.setReasm v).crcState = s.crcState := rfl
@[simp] theorem setReasm_encResult : (s.setReasm v).encResult = s.encResult := rfl
@[simp] theorem setReasm_decHdr : (s.setReasm v).decHdr = s.decHdr := rfl
@[simp] theorem setReasm_decCrc : (s.setReasm v).decCrc = s.decCrc := rfl
@[simp] theorem setReasm_reasm : (s.setReasm v).reasm = v := rfl
@[simp] theorem setReasm_accLen : (s.setReasm v).accLen = s.accLen := rfl
@[simp] theorem setReasm_inBuf : (s.setReasm v).inBuf = s.inBuf := rfl
@[simp] theorem setReasm_outBuf : (s.setReasm v).outBuf = s.outBuf := rfl
@[simp] theorem setReasm_decBuf : (s.setReasm v).decBuf = s.decBuf := rfl
@[simp] theorem setReasm_reasmBuf : (s.setReasm v).reasmBuf = s.reasmBuf := rfl
@[simp] theorem setReasm_pending : (s.setReasm v).pending = s.pending := rfl
@[simp] theorem setReasm_response : (s.setReasm v).response = s.response := rfl
end setReasm

section setAccLen
variable (s : State) (v : Half)
@[simp] theorem setAccLen_cfg : (s.setAccLen v).cfg = s.cfg := rfl
@[simp] theorem setAccLen_cmdWord : (s.setAccLen v).cmdWord = s.cmdWord := rfl
@[simp] theorem setAccLen_len : (s.setAccLen v).len = s.len := rfl
@[simp] theorem setAccLen_cfgVersion : (s.setAccLen v).cfgVersion = s.cfgVersion := rfl
@[simp] theorem setAccLen_status : (s.setAccLen v).status = s.status := rfl
@[simp] theorem setAccLen_crcState : (s.setAccLen v).crcState = s.crcState := rfl
@[simp] theorem setAccLen_encResult : (s.setAccLen v).encResult = s.encResult := rfl
@[simp] theorem setAccLen_decHdr : (s.setAccLen v).decHdr = s.decHdr := rfl
@[simp] theorem setAccLen_decCrc : (s.setAccLen v).decCrc = s.decCrc := rfl
@[simp] theorem setAccLen_reasm : (s.setAccLen v).reasm = s.reasm := rfl
@[simp] theorem setAccLen_accLen : (s.setAccLen v).accLen = v := rfl
@[simp] theorem setAccLen_inBuf : (s.setAccLen v).inBuf = s.inBuf := rfl
@[simp] theorem setAccLen_outBuf : (s.setAccLen v).outBuf = s.outBuf := rfl
@[simp] theorem setAccLen_decBuf : (s.setAccLen v).decBuf = s.decBuf := rfl
@[simp] theorem setAccLen_reasmBuf : (s.setAccLen v).reasmBuf = s.reasmBuf := rfl
@[simp] theorem setAccLen_pending : (s.setAccLen v).pending = s.pending := rfl
@[simp] theorem setAccLen_response : (s.setAccLen v).response = s.response := rfl
end setAccLen

section setInBuf
variable (s : State) (v : Memory)
@[simp] theorem setInBuf_cfg : (s.setInBuf v).cfg = s.cfg := rfl
@[simp] theorem setInBuf_cmdWord : (s.setInBuf v).cmdWord = s.cmdWord := rfl
@[simp] theorem setInBuf_len : (s.setInBuf v).len = s.len := rfl
@[simp] theorem setInBuf_cfgVersion : (s.setInBuf v).cfgVersion = s.cfgVersion := rfl
@[simp] theorem setInBuf_status : (s.setInBuf v).status = s.status := rfl
@[simp] theorem setInBuf_crcState : (s.setInBuf v).crcState = s.crcState := rfl
@[simp] theorem setInBuf_encResult : (s.setInBuf v).encResult = s.encResult := rfl
@[simp] theorem setInBuf_decHdr : (s.setInBuf v).decHdr = s.decHdr := rfl
@[simp] theorem setInBuf_decCrc : (s.setInBuf v).decCrc = s.decCrc := rfl
@[simp] theorem setInBuf_reasm : (s.setInBuf v).reasm = s.reasm := rfl
@[simp] theorem setInBuf_accLen : (s.setInBuf v).accLen = s.accLen := rfl
@[simp] theorem setInBuf_inBuf : (s.setInBuf v).inBuf = v := rfl
@[simp] theorem setInBuf_outBuf : (s.setInBuf v).outBuf = s.outBuf := rfl
@[simp] theorem setInBuf_decBuf : (s.setInBuf v).decBuf = s.decBuf := rfl
@[simp] theorem setInBuf_reasmBuf : (s.setInBuf v).reasmBuf = s.reasmBuf := rfl
@[simp] theorem setInBuf_pending : (s.setInBuf v).pending = s.pending := rfl
@[simp] theorem setInBuf_response : (s.setInBuf v).response = s.response := rfl
end setInBuf

section setOutBuf
variable (s : State) (v : Memory)
@[simp] theorem setOutBuf_cfg : (s.setOutBuf v).cfg = s.cfg := rfl
@[simp] theorem setOutBuf_cmdWord : (s.setOutBuf v).cmdWord = s.cmdWord := rfl
@[simp] theorem setOutBuf_len : (s.setOutBuf v).len = s.len := rfl
@[simp] theorem setOutBuf_cfgVersion : (s.setOutBuf v).cfgVersion = s.cfgVersion := rfl
@[simp] theorem setOutBuf_status : (s.setOutBuf v).status = s.status := rfl
@[simp] theorem setOutBuf_crcState : (s.setOutBuf v).crcState = s.crcState := rfl
@[simp] theorem setOutBuf_encResult : (s.setOutBuf v).encResult = s.encResult := rfl
@[simp] theorem setOutBuf_decHdr : (s.setOutBuf v).decHdr = s.decHdr := rfl
@[simp] theorem setOutBuf_decCrc : (s.setOutBuf v).decCrc = s.decCrc := rfl
@[simp] theorem setOutBuf_reasm : (s.setOutBuf v).reasm = s.reasm := rfl
@[simp] theorem setOutBuf_accLen : (s.setOutBuf v).accLen = s.accLen := rfl
@[simp] theorem setOutBuf_inBuf : (s.setOutBuf v).inBuf = s.inBuf := rfl
@[simp] theorem setOutBuf_outBuf : (s.setOutBuf v).outBuf = v := rfl
@[simp] theorem setOutBuf_decBuf : (s.setOutBuf v).decBuf = s.decBuf := rfl
@[simp] theorem setOutBuf_reasmBuf : (s.setOutBuf v).reasmBuf = s.reasmBuf := rfl
@[simp] theorem setOutBuf_pending : (s.setOutBuf v).pending = s.pending := rfl
@[simp] theorem setOutBuf_response : (s.setOutBuf v).response = s.response := rfl
end setOutBuf

section setDecBuf
variable (s : State) (v : Memory)
@[simp] theorem setDecBuf_cfg : (s.setDecBuf v).cfg = s.cfg := rfl
@[simp] theorem setDecBuf_cmdWord : (s.setDecBuf v).cmdWord = s.cmdWord := rfl
@[simp] theorem setDecBuf_len : (s.setDecBuf v).len = s.len := rfl
@[simp] theorem setDecBuf_cfgVersion : (s.setDecBuf v).cfgVersion = s.cfgVersion := rfl
@[simp] theorem setDecBuf_status : (s.setDecBuf v).status = s.status := rfl
@[simp] theorem setDecBuf_crcState : (s.setDecBuf v).crcState = s.crcState := rfl
@[simp] theorem setDecBuf_encResult : (s.setDecBuf v).encResult = s.encResult := rfl
@[simp] theorem setDecBuf_decHdr : (s.setDecBuf v).decHdr = s.decHdr := rfl
@[simp] theorem setDecBuf_decCrc : (s.setDecBuf v).decCrc = s.decCrc := rfl
@[simp] theorem setDecBuf_reasm : (s.setDecBuf v).reasm = s.reasm := rfl
@[simp] theorem setDecBuf_accLen : (s.setDecBuf v).accLen = s.accLen := rfl
@[simp] theorem setDecBuf_inBuf : (s.setDecBuf v).inBuf = s.inBuf := rfl
@[simp] theorem setDecBuf_outBuf : (s.setDecBuf v).outBuf = s.outBuf := rfl
@[simp] theorem setDecBuf_decBuf : (s.setDecBuf v).decBuf = v := rfl
@[simp] theorem setDecBuf_reasmBuf : (s.setDecBuf v).reasmBuf = s.reasmBuf := rfl
@[simp] theorem setDecBuf_pending : (s.setDecBuf v).pending = s.pending := rfl
@[simp] theorem setDecBuf_response : (s.setDecBuf v).response = s.response := rfl
end setDecBuf

section setReasmBuf
variable (s : State) (v : Memory)
@[simp] theorem setReasmBuf_cfg : (s.setReasmBuf v).cfg = s.cfg := rfl
@[simp] theorem setReasmBuf_cmdWord : (s.setReasmBuf v).cmdWord = s.cmdWord := rfl
@[simp] theorem setReasmBuf_len : (s.setReasmBuf v).len = s.len := rfl
@[simp] theorem setReasmBuf_cfgVersion : (s.setReasmBuf v).cfgVersion = s.cfgVersion := rfl
@[simp] theorem setReasmBuf_status : (s.setReasmBuf v).status = s.status := rfl
@[simp] theorem setReasmBuf_crcState : (s.setReasmBuf v).crcState = s.crcState := rfl
@[simp] theorem setReasmBuf_encResult : (s.setReasmBuf v).encResult = s.encResult := rfl
@[simp] theorem setReasmBuf_decHdr : (s.setReasmBuf v).decHdr = s.decHdr := rfl
@[simp] theorem setReasmBuf_decCrc : (s.setReasmBuf v).decCrc = s.decCrc := rfl
@[simp] theorem setReasmBuf_reasm : (s.setReasmBuf v).reasm = s.reasm := rfl
@[simp] theorem setReasmBuf_accLen : (s.setReasmBuf v).accLen = s.accLen := rfl
@[simp] theorem setReasmBuf_inBuf : (s.setReasmBuf v).inBuf = s.inBuf := rfl
@[simp] theorem setReasmBuf_outBuf : (s.setReasmBuf v).outBuf = s.outBuf := rfl
@[simp] theorem setReasmBuf_decBuf : (s.setReasmBuf v).decBuf = s.decBuf := rfl
@[simp] theorem setReasmBuf_reasmBuf : (s.setReasmBuf v).reasmBuf = v := rfl
@[simp] theorem setReasmBuf_pending : (s.setReasmBuf v).pending = s.pending := rfl
@[simp] theorem setReasmBuf_response : (s.setReasmBuf v).response = s.response := rfl
end setReasmBuf

section setPending
variable (s : State) (v : List HostEvent)
@[simp] theorem setPending_cfg : (s.setPending v).cfg = s.cfg := rfl
@[simp] theorem setPending_cmdWord : (s.setPending v).cmdWord = s.cmdWord := rfl
@[simp] theorem setPending_len : (s.setPending v).len = s.len := rfl
@[simp] theorem setPending_cfgVersion : (s.setPending v).cfgVersion = s.cfgVersion := rfl
@[simp] theorem setPending_status : (s.setPending v).status = s.status := rfl
@[simp] theorem setPending_crcState : (s.setPending v).crcState = s.crcState := rfl
@[simp] theorem setPending_encResult : (s.setPending v).encResult = s.encResult := rfl
@[simp] theorem setPending_decHdr : (s.setPending v).decHdr = s.decHdr := rfl
@[simp] theorem setPending_decCrc : (s.setPending v).decCrc = s.decCrc := rfl
@[simp] theorem setPending_reasm : (s.setPending v).reasm = s.reasm := rfl
@[simp] theorem setPending_accLen : (s.setPending v).accLen = s.accLen := rfl
@[simp] theorem setPending_inBuf : (s.setPending v).inBuf = s.inBuf := rfl
@[simp] theorem setPending_outBuf : (s.setPending v).outBuf = s.outBuf := rfl
@[simp] theorem setPending_decBuf : (s.setPending v).decBuf = s.decBuf := rfl
@[simp] theorem setPending_reasmBuf : (s.setPending v).reasmBuf = s.reasmBuf := rfl
@[simp] theorem setPending_pending : (s.setPending v).pending = v := rfl
@[simp] theorem setPending_response : (s.setPending v).response = s.response := rfl
end setPending

section setResponse
variable (s : State) (v : Response)
@[simp] theorem setResponse_cfg : (s.setResponse v).cfg = s.cfg := rfl
@[simp] theorem setResponse_cmdWord : (s.setResponse v).cmdWord = s.cmdWord := rfl
@[simp] theorem setResponse_len : (s.setResponse v).len = s.len := rfl
@[simp] theorem setResponse_cfgVersion : (s.setResponse v).cfgVersion = s.cfgVersion := rfl
@[simp] theorem setResponse_status : (s.setResponse v).status = s.status := rfl
@[simp] theorem setResponse_crcState : (s.setResponse v).crcState = s.crcState := rfl
@[simp] theorem setResponse_encResult : (s.setResponse v).encResult = s.encResult := rfl
@[simp] theorem setResponse_decHdr : (s.setResponse v).decHdr = s.decHdr := rfl
@[simp] theorem setResponse_decCrc : (s.setResponse v).decCrc = s.decCrc := rfl
@[simp] theorem setResponse_reasm : (s.setResponse v).reasm = s.reasm := rfl
@[simp] theorem setResponse_accLen : (s.setResponse v).accLen = s.accLen := rfl
@[simp] theorem setResponse_inBuf : (s.setResponse v).inBuf = s.inBuf := rfl
@[simp] theorem setResponse_outBuf : (s.setResponse v).outBuf = s.outBuf := rfl
@[simp] theorem setResponse_decBuf : (s.setResponse v).decBuf = s.decBuf := rfl
@[simp] theorem setResponse_reasmBuf : (s.setResponse v).reasmBuf = s.reasmBuf := rfl
@[simp] theorem setResponse_pending : (s.setResponse v).pending = s.pending := rfl
@[simp] theorem setResponse_response : (s.setResponse v).response = v := rfl
end setResponse

end Sys2Proof.Machine.State
end

