-- ==== Sys2Proof/Laws/Ops.lean ====
section
/-! SUPPORT. What the two endings of a command, the byte order, the header byte, the flags and the reset input do. -/

namespace Sys2Proof.Machine

/-! How a command ends. -/

@[simp] theorem finish_eq_next (s t : State) :
    finish s = .next t ↔ t = s.setStatus { err := .ok, reason := .none } := by
  simp [finish, eq_comm]

@[simp] theorem raise_eq_next (e : ErrCode) (r : FrameReason) (s t : State) :
    raise e r s = .next t ↔ t = s.setStatus { err := e, reason := r } := by
  simp [raise, eq_comm]

/-! Byte order (spec/20_memory.md R39, R40). -/

@[simp] theorem halfOfBytes_low_high (v : Half) : halfOfBytes (lowByte v) (highByte v) = v := by
  unfold halfOfBytes lowByte highByte
  ext i hi
  simp only [BitVec.getElem_append, BitVec.getElem_extractLsb']
  grind

@[simp] theorem lowByte_halfOfBytes (lo hi : Byte) : lowByte (halfOfBytes lo hi) = lo := by
  unfold halfOfBytes lowByte; ext i h; simp; grind

@[simp] theorem highByte_halfOfBytes (lo hi : Byte) : highByte (halfOfBytes lo hi) = hi := by
  unfold halfOfBytes highByte; ext i h; simp; grind

/-- A checksum is told by its two bytes. -/
theorem half_ext {v w : Half} (hl : lowByte v = lowByte w) (hh : highByte v = highByte w) : v = w := by
  rw [← halfOfBytes_low_high v, ← halfOfBytes_low_high w, hl, hh]

/-! The header byte (spec/30_encoding.md R59). -/

@[simp] theorem byteVersion_headerByte (v : Bit) (f : FrameFlags) : byteVersion (headerByte v f) = v := by
  unfold byteVersion headerByte; ext i h; simp; grind

@[simp] theorem byteFlags_headerByte (v : Bit) (f : FrameFlags) : byteFlags (headerByte v f) = f := by
  unfold byteFlags headerByte; ext i h; simp; grind

@[simp] theorem headerByte_parts (b : Byte) : headerByte (byteVersion b) (byteFlags b) = b := by
  unfold headerByte byteVersion byteFlags
  ext i h
  simp only [BitVec.getElem_append, BitVec.getElem_extractLsb']
  grind

/-! The flags (spec/30_encoding.md R60 to R63, spec/41_encoder.md R80 to R82). -/

@[simp] theorem flagsTag_baseFlags : ∀ (t : BitVec 3) (a p : Bool), flagsTag (baseFlags t a p) = t := by decide
@[simp] theorem flagsAck_baseFlags : ∀ (t : BitVec 3) (a p : Bool), flagsAck (baseFlags t a p) = a := by decide
@[simp] theorem flagsPartial_baseFlags : ∀ (t : BitVec 3) (a p : Bool), flagsPartial (baseFlags t a p) = p := by decide
@[simp] theorem flagsRsv_baseFlags : ∀ (t : BitVec 3) (a p : Bool), flagsRsv (baseFlags t a p) = 0#2 := by decide
@[simp] theorem flagsTag_withPartial : ∀ f : FrameFlags, flagsTag (withPartial f) = flagsTag f := by decide
@[simp] theorem flagsAck_withPartial : ∀ f : FrameFlags, flagsAck (withPartial f) = flagsAck f := by decide
@[simp] theorem flagsPartial_withPartial : ∀ f : FrameFlags, flagsPartial (withPartial f) = true := by decide
@[simp] theorem flagsRsv_withPartial : ∀ f : FrameFlags, flagsRsv (withPartial f) = flagsRsv f := by decide
@[simp] theorem flagsTag_sentinelFlags : ∀ f : FrameFlags, flagsTag (sentinelFlags f) = tagFinish := by decide
@[simp] theorem flagsAck_sentinelFlags : ∀ f : FrameFlags, flagsAck (sentinelFlags f) = flagsAck f := by decide
@[simp] theorem flagsPartial_sentinelFlags : ∀ f : FrameFlags, flagsPartial (sentinelFlags f) = flagsPartial f := by decide
@[simp] theorem flagsRsv_sentinelFlags : ∀ f : FrameFlags, flagsRsv (sentinelFlags f) = 0#2 := by decide
@[simp] theorem flagsValid_sentinelFlags : ∀ f : FrameFlags, flagsValid (sentinelFlags f) = true := by decide

/-- The encoder emits only valid flags (spec/30_encoding.md R63). -/
theorem flagsValid_baseFlags {t : BitVec 3} (h : tagNamed t = true) (a p : Bool) :
    flagsValid (baseFlags t a p) = true := by
  simp [flagsValid, h]

theorem flagsValid_withPartial (f : FrameFlags) : flagsValid (withPartial f) = flagsValid f := by
  simp [flagsValid]

theorem tagNamed_of_flagsValid {f : FrameFlags} (h : flagsValid f = true) : tagNamed (flagsTag f) = true := by
  simp only [flagsValid, Bool.and_eq_true] at h
  exact h.2

/-! The reset input (spec/70_reset_and_hazards.md R135). -/

@[simp] theorem applyReset_cfg (d : Drawn) (s : State) : (applyReset d s).cfg = s.cfg := rfl
@[simp] theorem applyReset_pending (d : Drawn) (s : State) : (applyReset d s).pending = s.pending := rfl
@[simp] theorem applyReset_response (d : Drawn) (s : State) : (applyReset d s).response = s.response := rfl
@[simp] theorem applyReset_inBuf (d : Drawn) (s : State) :
    (applyReset d s).inBuf = Memory.ofDrawn s.cfg.inSize d.inBuf := rfl
@[simp] theorem applyReset_outBuf (d : Drawn) (s : State) :
    (applyReset d s).outBuf = Memory.ofDrawn s.cfg.outSize d.outBuf := rfl
@[simp] theorem applyReset_decBuf (d : Drawn) (s : State) :
    (applyReset d s).decBuf = Memory.ofDrawn s.cfg.decSize d.decBuf := rfl
@[simp] theorem applyReset_reasmBuf (d : Drawn) (s : State) :
    (applyReset d s).reasmBuf = Memory.ofDrawn s.cfg.reasmSize d.reasmBuf := rfl
@[simp] theorem applyReset_status (d : Drawn) (s : State) :
    (applyReset d s).status = { err := .ok, reason := .none } := rfl
@[simp] theorem applyReset_encResult (d : Drawn) (s : State) : (applyReset d s).encResult = .zero := rfl
@[simp] theorem applyReset_decHdr (d : Drawn) (s : State) : (applyReset d s).decHdr = .zero := rfl
@[simp] theorem applyReset_decCrc (d : Drawn) (s : State) : (applyReset d s).decCrc = .zero := rfl
@[simp] theorem applyReset_reasm (d : Drawn) (s : State) : (applyReset d s).reasm = .zero := rfl
@[simp] theorem applyReset_accLen (d : Drawn) (s : State) : (applyReset d s).accLen = 0#16 := rfl
@[simp] theorem applyReset_crcState (d : Drawn) (s : State) : (applyReset d s).crcState = s.cfg.crc.init := rfl

/-- The four buffers right after reset are in canonical form. -/
theorem reset_buffers_wf : Memory.wf State.reset.inBuf ∧ Memory.wf State.reset.outBuf ∧
    Memory.wf State.reset.decBuf ∧ Memory.wf State.reset.reasmBuf := by decide

end Sys2Proof.Machine
end

