-- ==== Sys2Proof/Laws/Frames.lean ====
section
/-! SUPPORT. The shape of a wire frame, and where the frames of a list stand when they are stored back to back
(spec/41_encoder.md R78, R79). -/

namespace Sys2Proof.Machine

open Memory

/-! One wire frame. -/

@[simp] theorem length_frameHead (v : Bit) (f : FrameFlags) (id : Byte) (pl : List Byte) :
    (frameHead v f id pl).length = 3 + pl.length := by
  simp [frameHead]; omega

@[simp] theorem length_checksumBytes (p : CrcParams) (bs : List Byte) : (checksumBytes p bs).length = 2 := rfl

@[simp] theorem length_wireFrame (p : CrcParams) (v : Bit) (f : FrameFlags) (id : Byte) (pl : List Byte) :
    (wireFrame p v f id pl).length = 5 + pl.length := by
  simp [wireFrame]; omega

/-- A list of bytes that is one frame long by its own length byte. -/
def SelfSized (bs : List Byte) : Prop := ∃ b, bs[2]? = some b ∧ bs.length = 5 + b.toNat

theorem selfSized_wireFrame (p : CrcParams) (v : Bit) (f : FrameFlags) (id : Byte) (pl : List Byte)
    (h : pl.length < 256) : SelfSized (wireFrame p v f id pl) := by
  refine ⟨BitVec.ofNat 8 pl.length, by simp [wireFrame, frameHead], ?_⟩
  simp [Nat.mod_eq_of_lt h]

/-! Frame offsets. -/

theorem frameOffset_succ (m : Memory) (k : Nat) :
    frameOffset m (k + 1) = frameOffset m k + (5 + frameLength m k) := by
  simp [frameOffset, frameLength, Nat.add_assoc]

theorem frameOffset_mono (m : Memory) {j k : Nat} (h : j ≤ k) : frameOffset m j ≤ frameOffset m k := by
  induction k with
  | zero => simp [Nat.le_zero.mp h]
  | succ k ih =>
    rcases Nat.le_succ_iff.mp h with h | h
    · exact le_trans (ih h) (by rw [frameOffset_succ]; omega)
    · rw [h]

/-- Memories that read alike below the end of frame k-1 have the same first k frames. -/
theorem frameOffset_congr {m m' : Memory} {k : Nat}
    (h : ∀ a, a < frameOffset m k → read m a = read m' a) : frameOffset m' k = frameOffset m k := by
  induction k with
  | zero => rfl
  | succ k ih =>
    have hlt : frameOffset m k + 2 < frameOffset m (k + 1) := by rw [frameOffset_succ]; omega
    have hk := ih fun a ha => h a (by rw [frameOffset_succ]; omega)
    rw [frameOffset, frameOffset, hk, h _ hlt]

theorem frameBytes_congr {m m' : Memory} {k : Nat}
    (h : ∀ a, a < frameOffset m (k + 1) → read m a = read m' a) : frameBytes m' k = frameBytes m k := by
  have hs := frameOffset_succ m k
  have ho := frameOffset_congr (k := k) fun a ha => h a (by omega)
  have hl : frameLength m' k = frameLength m k := by
    rw [frameLength, frameLength, ho, h _ (by omega)]
  rw [frameBytes, frameBytes, ho, hl]
  exact load_congr fun j hj => (h _ (by omega)).symm

@[simp] theorem length_frameBytes (m : Memory) (k : Nat) : (frameBytes m k).length = 5 + frameLength m k := by
  simp [frameBytes]

/-! A list of frames stored back to back. -/

theorem read_flatten {size : Nat} {m : Memory} (hm : wf m) (fs : List (List Byte))
    (hs : fs.flatten.length ≤ size) {a : Nat} (ha : a < fs.flatten.length) :
    read (storeBytes size m 0 fs.flatten) a = fs.flatten[a] := by
  have := read_storeBytes_inside (size := size) fs.flatten m 0 a ha hm (by omega)
  simpa using this

/-- The first k frames of a stored list end where frame k starts. -/
theorem frameOffset_stored {size : Nat} {m : Memory} (hm : wf m) (fs : List (List Byte))
    (hf : ∀ f ∈ fs, SelfSized f) (hs : fs.flatten.length ≤ size) (k : Nat) (hk : k ≤ fs.length) :
    frameOffset (storeBytes size m 0 fs.flatten) k = (fs.take k).flatten.length := by
  induction k with
  | zero => simp [frameOffset]
  | succ k ih =>
    have hk' : k < fs.length := hk
    obtain ⟨b, hb, hl⟩ := hf fs[k] (List.getElem_mem hk')
    obtain ⟨h2, hb2⟩ := List.getElem?_eq_some_iff.mp hb
    have hsplit : fs.flatten = (fs.take k).flatten ++ (fs[k] ++ (fs.drop (k + 1)).flatten) := by
      rw [← List.flatten_cons, ← List.flatten_append, List.getElem_cons_drop, List.take_append_drop]
    have hlen : (fs.take k).flatten.length + 2 < fs.flatten.length := by
      rw [hsplit]; simp; omega
    have hread : read (storeBytes size m 0 fs.flatten) ((fs.take k).flatten.length + 2) = b := by
      rw [read_flatten hm fs hs hlen]
      simp only [hsplit]
      rw [List.getElem_append_right (by omega), List.getElem_append_left (by omega)]
      simpa using hb2
    rw [frameOffset, ih (by omega), hread, List.take_succ_eq_append_getElem hk', List.flatten_append,
      List.length_append, List.flatten_singleton, hl]
    omega

/-- Frame k of a stored list is the list's k-th frame. -/
theorem frameBytes_stored {size : Nat} {m : Memory} (hm : wf m) (fs : List (List Byte))
    (hf : ∀ f ∈ fs, SelfSized f) (hs : fs.flatten.length ≤ size) (k : Nat) (hk : k < fs.length) :
    frameBytes (storeBytes size m 0 fs.flatten) k = fs[k] := by
  have h0 := frameOffset_stored hm fs hf hs k (by omega)
  have h1 := frameOffset_stored hm fs hf hs (k + 1) (by omega)
  have hsplit : fs.flatten = (fs.take k).flatten ++ (fs[k] ++ (fs.drop (k + 1)).flatten) := by
    rw [← List.flatten_cons, ← List.flatten_append, List.getElem_cons_drop, List.take_append_drop]
  rw [frameOffset_succ, h0, List.take_succ_eq_append_getElem hk, List.flatten_append, List.length_append,
    List.flatten_singleton] at h1
  have hlen : 5 + frameLength (storeBytes size m 0 fs.flatten) k = fs[k].length := by omega
  rw [frameBytes, hlen, h0]
  refine List.ext_getElem (by simp) fun j hj hj' => ?_
  rw [getElem_load, read_flatten hm fs hs (by rw [hsplit]; simp; omega)]
  simp only [hsplit]
  rw [List.getElem_append_right (by omega), List.getElem_append_left (by omega)]
  congr 1
  omega

end Sys2Proof.Machine
end

