-- ==== Sys2Proof/Laws/Decoder.lean ====
section
/-! SUPPORT. What the decoder's checks and DEC do (spec/42_decoder.md R89 to R98). -/

namespace Sys2Proof.Machine

open Memory

section
variable (fr : Frame) (s : State)

@[simp] theorem clearDecoded_cfg : (clearDecoded s).cfg = s.cfg := rfl
@[simp] theorem clearDecoded_cmdWord : (clearDecoded s).cmdWord = s.cmdWord := rfl
@[simp] theorem clearDecoded_len : (clearDecoded s).len = s.len := rfl
@[simp] theorem clearDecoded_cfgVersion : (clearDecoded s).cfgVersion = s.cfgVersion := rfl
@[simp] theorem clearDecoded_status : (clearDecoded s).status = s.status := rfl
@[simp] theorem clearDecoded_crcState : (clearDecoded s).crcState = s.crcState := rfl
@[simp] theorem clearDecoded_encResult : (clearDecoded s).encResult = s.encResult := rfl
@[simp] theorem clearDecoded_decHdr : (clearDecoded s).decHdr = .zero := rfl
@[simp] theorem clearDecoded_decCrc : (clearDecoded s).decCrc = .zero := rfl
@[simp] theorem clearDecoded_reasm : (clearDecoded s).reasm = s.reasm := rfl
@[simp] theorem clearDecoded_accLen : (clearDecoded s).accLen = s.accLen := rfl
@[simp] theorem clearDecoded_inBuf : (clearDecoded s).inBuf = s.inBuf := rfl
@[simp] theorem clearDecoded_outBuf : (clearDecoded s).outBuf = s.outBuf := rfl
@[simp] theorem clearDecoded_decBuf : (clearDecoded s).decBuf = s.decBuf := rfl
@[simp] theorem clearDecoded_reasmBuf : (clearDecoded s).reasmBuf = s.reasmBuf := rfl
@[simp] theorem clearDecoded_pending : (clearDecoded s).pending = s.pending := rfl
@[simp] theorem clearDecoded_response : (clearDecoded s).response = s.response := rfl

@[simp] theorem holdFrame_cfg : (holdFrame fr s).cfg = s.cfg := rfl
@[simp] theorem holdFrame_cmdWord : (holdFrame fr s).cmdWord = s.cmdWord := rfl
@[simp] theorem holdFrame_len : (holdFrame fr s).len = s.len := rfl
@[simp] theorem holdFrame_cfgVersion : (holdFrame fr s).cfgVersion = s.cfgVersion := rfl
@[simp] theorem holdFrame_status : (holdFrame fr s).status = s.status := rfl
@[simp] theorem holdFrame_crcState : (holdFrame fr s).crcState = s.crcState := rfl
@[simp] theorem holdFrame_encResult : (holdFrame fr s).encResult = s.encResult := rfl
@[simp] theorem holdFrame_decHdr : (holdFrame fr s).decHdr =
    { flags := fr.flags, version := fr.version, id := fr.id, length := fr.length, valid := true } := rfl
@[simp] theorem holdFrame_decCrc : (holdFrame fr s).decCrc =
    { received := fr.received, computed := fr.computed } := rfl
@[simp] theorem holdFrame_reasm : (holdFrame fr s).reasm = s.reasm := rfl
@[simp] theorem holdFrame_accLen : (holdFrame fr s).accLen = s.accLen := rfl
@[simp] theorem holdFrame_inBuf : (holdFrame fr s).inBuf = s.inBuf := rfl
@[simp] theorem holdFrame_outBuf : (holdFrame fr s).outBuf = s.outBuf := rfl
@[simp] theorem holdFrame_decBuf : (holdFrame fr s).decBuf =
    Memory.storeBytes s.cfg.decSize s.decBuf 0 fr.payload := rfl
@[simp] theorem holdFrame_reasmBuf : (holdFrame fr s).reasmBuf = s.reasmBuf := rfl
@[simp] theorem holdFrame_pending : (holdFrame fr s).pending = s.pending := rfl
@[simp] theorem holdFrame_response : (holdFrame fr s).response = s.response := rfl

end

/-- Memories that read alike below LEN decode alike (spec/42_decoder.md R88). -/
theorem decodeFrame_congr {c : Config} {n : Nat} {m m' : Memory} (h : ∀ a, a < n → read m a = read m' a) :
    decodeFrame c n m = decodeFrame c n m' := by
  by_cases hn : n < 5
  · simp [decodeFrame, hn]
  · have e0 := h 0 (by omega)
    have e1 := h 1 (by omega)
    have e2 := h 2 (by omega)
    have e3 := h (n - 2) (by omega)
    have e4 := h (n - 1) (by omega)
    have e5 : load m 0 (n - 2) = load m' 0 (n - 2) := load_congr fun k hk => h _ (by omega)
    unfold decodeFrame
    simp only [e0, e1, e2, e3, e4, e5, if_neg hn]
    split_ifs with h1 h2 h3 h4
    · rfl
    · rfl
    · rfl
    · rfl
    · have e6 : load m 3 (read m' 2).toNat = load m' 3 (read m' 2).toNat :=
        load_congr fun k hk => h _ (by omega)
      rw [e6]

/-- Every way DEC can end: InvalidArgument, MalformedFrame with the first failing check, or the frame held. -/
theorem execDec_cases {s t : State} (h : execDec s = .next t) :
    (s.cfg.inSize < inputLen s ∧ t = (clearDecoded s).setStatus ⟨.invalidArgument, .none⟩) ∨
    (inputLen s ≤ s.cfg.inSize ∧ ∃ r, decodeFrame s.cfg (inputLen s) s.inBuf = .error r ∧
      t = (clearDecoded s).setStatus ⟨.malformedFrame, r⟩) ∨
    (inputLen s ≤ s.cfg.inSize ∧ ∃ fr, decodeFrame s.cfg (inputLen s) s.inBuf = .ok fr ∧
      t = (holdFrame fr (clearDecoded s)).setStatus ⟨.ok, .none⟩) := by
  unfold execDec inputFits at h
  split_ifs at h with h1
  · simp only [raise_eq_next, Bool.not_eq_true', decide_eq_false_iff_not, not_le] at h h1
    exact .inl ⟨h1, h⟩
  · simp only [Bool.not_eq_true', decide_eq_false_iff_not, not_le, not_lt] at h1
    split at h
    · rename_i r hr
      exact .inr (.inl ⟨h1, r, hr, by simpa using h⟩)
    · rename_i fr hr
      exact .inr (.inr ⟨h1, fr, hr, by simpa using h⟩)

/-- A frame that decodes: every check passed, and its parts are the bytes they are read from. -/
theorem decodeFrame_ok {c : Config} {n : Nat} {m : Memory} {fr : Frame} (h : decodeFrame c n m = .ok fr) :
    n = fr.length.toNat + 5 ∧ fr.length.toNat ≤ c.maxPayload ∧ flagsValid fr.flags = true ∧
      fr.length = read m 2 ∧ fr.id = read m 1 ∧ headerByte fr.version fr.flags = read m 0 ∧
      fr.payload = load m 3 fr.length.toNat ∧ fr.received = fr.computed ∧
      fr.received = halfOfBytes (read m (n - 2)) (read m (n - 1)) ∧
      fr.computed = checksum c.crc (frameHead fr.version fr.flags fr.id fr.payload) := by
  unfold decodeFrame at h
  simp only at h
  split_ifs at h with h1 h2 h3 h4 h5
  obtain rfl := Except.ok.inj h
  simp only [ne_eq, not_not, not_lt, Bool.not_eq_true', Bool.not_eq_false] at h2 h3 h4 h5
  refine ⟨h4, h3, h5, rfl, rfl, headerByte_parts _, rfl, h2, rfl, ?_⟩
  rw [h4, show (read m 2).toNat + 5 - 2 = (read m 2).toNat + 1 + 1 + 1 by omega, load_succ, load_succ, load_succ,
    frameHead, headerByte_parts, length_load]
  simp

/-- A refused raw frame has one of the five reasons; InvalidVersion is not among them (spec/42_decoder.md R97). -/
theorem decodeFrame_error {c : Config} {n : Nat} {m : Memory} {r : FrameReason}
    (h : decodeFrame c n m = .error r) :
    r = .truncated ∨ r = .checksumMismatch ∨ r = .oversize ∨ r = .lengthMismatch ∨ r = .invalidFlags := by
  unfold decodeFrame at h
  simp only at h
  split_ifs at h <;> · obtain rfl := Except.error.inj h; simp

end Sys2Proof.Machine
end

