-- ==== Sys2Proof/Laws/Encoder.lean ====
section
/-! SUPPORT. What the splitter, the sentinel and ENC do (spec/41_encoder.md R81 to R83). -/

namespace Sys2Proof.Machine

open Memory

/-- ceil(L / M) <= F says L <= F*M (spec/41_encoder.md R81). -/
theorem fragmentCount_le_iff (c : Config) (hM : 1 ≤ c.maxPayload) (len : Nat) :
    fragmentCount c len ≤ c.maxFragments ↔ len ≤ c.maxFragments * c.maxPayload := by
  unfold fragmentCount
  constructor
  · intro h
    by_contra hlt
    have : c.maxFragments + 1 ≤ (len + c.maxPayload - 1) / c.maxPayload := by
      rw [Nat.le_div_iff_mul_le (by omega), Nat.add_mul]
      omega
    omega
  · intro h
    have : (len + c.maxPayload - 1) / c.maxPayload < c.maxFragments + 1 := by
      rw [Nat.div_lt_iff_lt_mul (by omega), Nat.add_mul]
      omega
    omega

/-- The fragments together carry at most the payload: every fragment starts inside it. -/
theorem fragment_start_lt (c : Config) (hM : 1 ≤ c.maxPayload) {len i : Nat} (hi : i < fragmentCount c len) :
    i * c.maxPayload < len := by
  have h : (i + 1) * c.maxPayload ≤ len + c.maxPayload - 1 := by
    have := (Nat.le_div_iff_mul_le (by omega : 0 < c.maxPayload)).mp (Nat.succ_le_of_lt hi)
    simpa [fragmentCount] using this
  rw [Nat.add_mul] at h
  omega

/-- Every chunk the splitter makes has the tag of the base flags, valid flags if the base has, and at most M bytes
inside the payload. -/
theorem split_chunk {c : Config} {len : Nat} {base : FrameFlags} {chunks : List Chunk}
    (h : split c len base = some chunks) {ch : Chunk} (hc : ch ∈ chunks) :
    ch.size ≤ c.maxPayload ∧ (ch.flags = base ∨ ch.flags = withPartial base) ∧ ch.start + ch.size ≤ max ch.start len := by
  unfold split at h
  split_ifs at h with h1 h2
  · obtain rfl := Option.some.inj h
    obtain rfl := List.mem_singleton.mp hc
    exact ⟨Nat.le_of_lt h1, .inl rfl, by simp⟩
  · obtain rfl := Option.some.inj h
    obtain ⟨i, -, rfl⟩ := List.mem_map.mp hc
    refine ⟨Nat.min_le_left _ _, .inr rfl, ?_⟩
    simp only [fragment]
    omega

/-- The sentinel has no payload and the FINISH tag. -/
theorem sentinel_chunk {c : Config} {len : Nat} {base : FrameFlags} {ch : Chunk} (hc : ch ∈ sentinel c len base) :
    ch.size = 0 ∧ ch.start = 0 ∧ ch.flags = sentinelFlags (withPartial base) := by
  unfold sentinel at hc
  split_ifs at hc
  · simp at hc
  · simp at hc
  · obtain rfl := List.mem_singleton.mp hc; exact ⟨rfl, rfl, rfl⟩

@[simp] theorem length_chunkFrame (s : State) (ch : Chunk) : (chunkFrame s ch).length = 5 + ch.size := by
  simp [chunkFrame]

/-- Every way ENC can end: one of its three errors, in their order, or the frames in OUT_BUF. -/
theorem execEnc_cases {tag : BitVec 3} {ack part : Bool} {s t : State} (h : execEnc tag ack part s = .next t) :
    (s.cfg.inSize < inputLen s ∧ t = (s.setEncResult .zero).setStatus ⟨.invalidArgument, .none⟩) ∨
    (inputLen s ≤ s.cfg.inSize ∧ tagNamed tag = false ∧
      t = (s.setEncResult .zero).setStatus ⟨.unsupportedType, .none⟩) ∨
    (inputLen s ≤ s.cfg.inSize ∧ tagNamed tag = true ∧ split s.cfg (inputLen s) (baseFlags tag ack part) = none ∧
      t = (s.setEncResult .zero).setStatus ⟨.fragmentLimitExceeded, .none⟩) ∨
    (inputLen s ≤ s.cfg.inSize ∧ tagNamed tag = true ∧
      ∃ chunks frames, split s.cfg (inputLen s) (baseFlags tag ack part) = some chunks ∧
        frames = chunks ++ sentinel s.cfg (inputLen s) (baseFlags tag ack part) ∧
        t = ((s.setOutBuf (storeBytes s.cfg.outSize s.outBuf 0 (frames.flatMap (chunkFrame s)))).setEncResult
          ⟨BitVec.ofNat 8 frames.length, BitVec.ofNat 16 (frames.flatMap (chunkFrame s)).length⟩).setStatus
          ⟨.ok, .none⟩) := by
  unfold execEnc inputFits at h
  split_ifs at h with h1 h2
  · simp only [raise_eq_next, Bool.not_eq_true', decide_eq_false_iff_not, not_le] at h h1
    exact .inl ⟨h1, h⟩
  · simp only [raise_eq_next, Bool.not_eq_true', decide_eq_false_iff_not, not_le, not_lt] at h h1 h2
    exact .inr (.inl ⟨h1, h2, h⟩)
  · simp only [Bool.not_eq_true', decide_eq_false_iff_not, not_le, not_lt, Bool.not_eq_false] at h1 h2
    split at h
    · rename_i hs
      exact .inr (.inr (.inl ⟨h1, h2, hs, by simpa using h⟩))
    · rename_i chunks hs
      exact .inr (.inr (.inr ⟨h1, h2, chunks, _, hs, rfl, by simpa using h⟩))

end Sys2Proof.Machine
end

