-- ==== Sys2Proof/Laws/Reassembly.lean ====
section
/-! SUPPORT. What one REASM.ACCEPT does: which fields it can touch, and its transitions
(spec/43_reassembly.md R103 to R110). -/

namespace Sys2Proof.Machine

section
variable (s : State)

@[simp] theorem consumeDecoded_cfg : (consumeDecoded s).cfg = s.cfg := rfl
@[simp] theorem consumeDecoded_cmdWord : (consumeDecoded s).cmdWord = s.cmdWord := rfl
@[simp] theorem consumeDecoded_len : (consumeDecoded s).len = s.len := rfl
@[simp] theorem consumeDecoded_cfgVersion : (consumeDecoded s).cfgVersion = s.cfgVersion := rfl
@[simp] theorem consumeDecoded_status : (consumeDecoded s).status = s.status := rfl
@[simp] theorem consumeDecoded_crcState : (consumeDecoded s).crcState = s.crcState := rfl
@[simp] theorem consumeDecoded_encResult : (consumeDecoded s).encResult = s.encResult := rfl
@[simp] theorem consumeDecoded_decHdr : (consumeDecoded s).decHdr = { s.decHdr with valid := false } := rfl
@[simp] theorem consumeDecoded_decCrc : (consumeDecoded s).decCrc = s.decCrc := rfl
@[simp] theorem consumeDecoded_reasm : (consumeDecoded s).reasm = s.reasm := rfl
@[simp] theorem consumeDecoded_accLen : (consumeDecoded s).accLen = s.accLen := rfl
@[simp] theorem consumeDecoded_inBuf : (consumeDecoded s).inBuf = s.inBuf := rfl
@[simp] theorem consumeDecoded_outBuf : (consumeDecoded s).outBuf = s.outBuf := rfl
@[simp] theorem consumeDecoded_decBuf : (consumeDecoded s).decBuf = s.decBuf := rfl
@[simp] theorem consumeDecoded_reasmBuf : (consumeDecoded s).reasmBuf = s.reasmBuf := rfl
@[simp] theorem consumeDecoded_pending : (consumeDecoded s).pending = s.pending := rfl
@[simp] theorem consumeDecoded_response : (consumeDecoded s).response = s.response := rfl

@[simp] theorem appendPayload_reasm : (appendPayload s).reasm = s.reasm := rfl
@[simp] theorem appendPayload_cfg : (appendPayload s).cfg = s.cfg := rfl
@[simp] theorem appendPayload_decHdr : (appendPayload s).decHdr = s.decHdr := rfl
@[simp] theorem appendPayload_accLen :
    (appendPayload s).accLen = s.accLen + s.decHdr.length.setWidth 16 := rfl
@[simp] theorem appendPayload_reasmBuf : (appendPayload s).reasmBuf =
    Memory.storeBytes s.cfg.reasmSize s.reasmBuf s.accLen.toNat (s.decBuf.load 0 s.decHdr.length.toNat) := rfl

end

/-- What REASM.ACCEPT may write: the event machine's register, its length and REASM_BUF. -/
theorem acceptFrame_frame (v : Bool) (s : State) :
    acceptFrame v s = ((s.setReasm (acceptFrame v s).reasm).setAccLen (acceptFrame v s).accLen).setReasmBuf
      (acceptFrame v s).reasmBuf := by
  unfold acceptFrame acceptIdle acceptCollecting
  split <;> (try split_ifs) <;> rfl

/-- Every transition of the accumulator, each with its guard (spec/43_reassembly.md R105). -/
theorem acceptFrame_cases (v : Bool) (s : State) :
    ((s.reasm.state = .complete ∨ s.reasm.state = .failed) ∧ acceptFrame v s = setEvent s .ignoredTerminal) ∨
    ((s.reasm.state = .idle ∨ s.reasm.state = .collecting) ∧ v = false ∧ acceptFrame v s = setEvent s .dropped) ∨
    (s.reasm.state = .idle ∧ v = true ∧ flagsTag s.decHdr.flags = tagFinish ∧
      acceptFrame v s = setEvent s .strayFinish) ∨
    (s.reasm.state = .idle ∧ v = true ∧ flagsTag s.decHdr.flags ≠ tagFinish ∧
      acceptFrame v s =
        (s.setReasm
          { state := if flagsPartial s.decHdr.flags then .collecting else .complete
            event := if flagsPartial s.decHdr.flags then .started else .completeSingle
            fragCount := 1#8, firstFlags := s.decHdr.flags }
        |>.setAccLen (s.decHdr.length.setWidth 16)
        |>.setReasmBuf (Memory.storeBytes s.cfg.reasmSize s.reasmBuf 0 (s.decBuf.load 0 s.decHdr.length.toNat)))) ∨
    (s.reasm.state = .collecting ∧ v = true ∧
      (∃ st e, (st = .failed ∧ (e = .failProtocol ∨ e = .failTagMismatch ∨ e = .failOverflow) ∨
          st = .complete ∧ e = .completeFin ∧ s.decHdr.length = 0#8 ∧ flagsTag s.decHdr.flags = tagFinish) ∧
        acceptFrame v s = setOutcome s st e)) ∨
    (s.reasm.state = .collecting ∧ v = true ∧ flagsTag s.decHdr.flags = flagsTag s.reasm.firstFlags ∧
      flagsPartial s.decHdr.flags = true ∧ s.reasm.fragCount.toNat ≠ s.cfg.maxFragments ∧
      acceptFrame v s =
        (s.setReasm { s.reasm with event := .appended, fragCount := s.reasm.fragCount + 1#8 }
        |>.setAccLen (s.accLen + s.decHdr.length.setWidth 16)
        |>.setReasmBuf (Memory.storeBytes s.cfg.reasmSize s.reasmBuf s.accLen.toNat
            (s.decBuf.load 0 s.decHdr.length.toNat)))) := by
  cases hst : s.reasm.state
  case complete => simp [acceptFrame, hst]
  case failed => simp [acceptFrame, hst]
  case idle =>
    cases v
    · simp [acceptFrame, hst]
    · by_cases ht : flagsTag s.decHdr.flags = tagFinish
      · simp [acceptFrame, hst, acceptIdle, ht]
      · by_cases hp : flagsPartial s.decHdr.flags = true <;>
          simp [acceptFrame, hst, acceptIdle, ht, hp, setFragCount, setOutcome, appendPayload, State.setReasm,
            State.setAccLen, State.setReasmBuf]
  case collecting =>
    cases v
    · simp [acceptFrame, hst]
    · have hdef : acceptFrame true s = acceptCollecting s := by simp [acceptFrame, hst]
      rw [hdef]
      by_cases h1 : flagsTag s.decHdr.flags = tagFinish
      · by_cases h2 : s.decHdr.length = 0#8
        · exact .inr (.inr (.inr (.inr (.inl
            ⟨rfl, rfl, _, _, .inr ⟨rfl, rfl, h2, h1⟩, by simp [acceptCollecting, h1, h2]⟩))))
        · exact .inr (.inr (.inr (.inr (.inl
            ⟨rfl, rfl, _, _, .inl ⟨rfl, .inl rfl⟩, by simp [acceptCollecting, h1, h2]⟩))))
      · by_cases h3 : flagsTag s.decHdr.flags = flagsTag s.reasm.firstFlags
        · by_cases h4 : flagsPartial s.decHdr.flags = true
          · by_cases h5 : s.reasm.fragCount.toNat = s.cfg.maxFragments
            · exact .inr (.inr (.inr (.inr (.inl ⟨rfl, rfl, _, _, .inl ⟨rfl, .inr (.inr rfl)⟩, by
                rw [acceptCollecting, if_neg h1, if_neg (by simp [h3]), if_neg (by simp [h4]), if_pos h5]⟩))))
            · exact .inr (.inr (.inr (.inr (.inr ⟨rfl, rfl, h3, h4, h5, by
                rw [acceptCollecting, if_neg h1, if_neg (by simp [h3]), if_neg (by simp [h4]), if_neg h5]
                rfl⟩))))
          · exact .inr (.inr (.inr (.inr (.inl ⟨rfl, rfl, _, _, .inl ⟨rfl, .inl rfl⟩, by
              rw [acceptCollecting, if_neg h1, if_neg (by simp [h3]), if_pos (by simp [h4])]⟩))))
        · exact .inr (.inr (.inr (.inr (.inl ⟨rfl, rfl, _, _, .inl ⟨rfl, .inr (.inl rfl)⟩, by
            rw [acceptCollecting, if_neg h1, if_pos h3]⟩))))

end Sys2Proof.Machine
end

