-- ==== Sys2Proof/Laws/Host.lean ====
section
/-! SUPPORT. What one host event and one step can do (spec/44_control.md R113). -/

namespace Sys2Proof.Machine

/-- A step of a legal configuration is the next event. -/
theorem step_of_legal {s : State} (h : s.cfg.legal = true) : step s = nextEvent s := by
  simp [step, h]

theorem nextEvent_nil {s : State} (h : s.pending = []) : nextEvent s = .next s := by
  simp [nextEvent, h]

theorem nextEvent_cons {s : State} {e : HostEvent} {rest : List HostEvent} (h : s.pending = e :: rest) :
    nextEvent s = hostEvent e (s.setPending rest) := by
  simp [nextEvent, h]

/-- What writing a command word does: the command it decodes to, or IllegalCommand. -/
theorem runCommand_cases {w : Word} {s t : State} (h : runCommand w s = .next t) :
    (∃ i, decode w = .ok i ∧ exec i (s.setCmdWord w) = .next t) ∨
    (∃ r, decode w = .error r ∧ t = (s.setCmdWord w).setStatus ⟨.illegalCommand, .none⟩) := by
  unfold runCommand at h
  split at h
  · rename_i i hi
    exact .inl ⟨i, hi, h⟩
  · rename_i r hr
    exact .inr ⟨r, hr, by simpa [illegalCommand] using h⟩

/-- Everything a register write can do. -/
theorem writeRegister_cases {off : BitVec 8} {v : Word} {s t : State} (h : writeRegister off v s = .next t) :
    (off = 0x00#8 ∧ runCommand v s = .next t) ∨
    (off = 0x04#8 ∧ t = s.setLen (v.extractLsb' 0 16)) ∨
    (off = 0x08#8 ∧ t = s.setCfgVersion (v.extractLsb' 0 1)) ∨
    (off ≠ 0x00#8 ∧ off ≠ 0x04#8 ∧ off ≠ 0x08#8 ∧ t = s) := by
  unfold writeRegister at h
  split_ifs at h with h0 h4 h8
  · exact .inl ⟨h0, h⟩
  · exact .inr (.inl ⟨h4, (Host.Outcome.next.inj h).symm⟩)
  · exact .inr (.inr (.inl ⟨h8, (Host.Outcome.next.inj h).symm⟩))
  · exact .inr (.inr (.inr ⟨h0, h4, h8, (Host.Outcome.next.inj h).symm⟩))

/-- Everything one event can do. -/
theorem hostEvent_cases {e : HostEvent} {s t : State} (h : hostEvent e s = .next t) :
    (∃ off, e = .readReg off ∧ t = s.setResponse (.word (regWord s off))) ∨
    (∃ off v, e = .writeReg off v ∧ writeRegister off v s = .next t) ∨
    (∃ sp i, e = .readBuf sp i ∧ t = s.setResponse (.byte (bufferByte s sp i))) ∨
    (∃ sp i b, e = .writeBuf sp i b ∧ t = writeBuffer sp i b s) ∨
    (∃ d, e = .reset d ∧ t = applyReset d s) := by
  cases e with
  | readReg off => exact .inl ⟨off, rfl, (Host.Outcome.next.inj h).symm⟩
  | writeReg off v => exact .inr (.inl ⟨off, v, rfl, h⟩)
  | readBuf sp i => exact .inr (.inr (.inl ⟨sp, i, rfl, (Host.Outcome.next.inj h).symm⟩))
  | writeBuf sp i b => exact .inr (.inr (.inr (.inl ⟨sp, i, b, rfl, (Host.Outcome.next.inj h).symm⟩)))
  | reset d => exact .inr (.inr (.inr (.inr ⟨d, rfl, (Host.Outcome.next.inj h).symm⟩)))

/-- Everything one step can do: hold still, or the next event in the state with that event taken off the list. -/
theorem step_cases {s t : State} (h : step s = .next t) :
    s.cfg.legal = true ∧ ((s.pending = [] ∧ t = s) ∨
      ∃ e rest, s.pending = e :: rest ∧ hostEvent e (s.setPending rest) = .next t) := by
  unfold step at h
  split_ifs at h with hl
  refine ⟨hl, ?_⟩
  cases hp : s.pending with
  | nil => exact .inl ⟨rfl, by simpa [nextEvent, hp, eq_comm] using h⟩
  | cons e rest => exact .inr ⟨e, rest, rfl, by rwa [nextEvent_cons hp] at h⟩

/-- A host write of a buffer touches IN_BUF alone. -/
theorem writeBuffer_eq (sp : Buffer) (i : Nat) (b : Byte) (s : State) :
    writeBuffer sp i b s = s ∨ writeBuffer sp i b s = s.setInBuf (s.inBuf.store s.cfg.inSize i b) := by
  cases sp <;> simp [writeBuffer]

/-- Two event lists one after the other. -/
theorem runEvents_append (es fs : List HostEvent) (s t : State) (h : runEvents es s = .next t) :
    runEvents (es ++ fs) s = runEvents fs t := by
  induction es generalizing s with
  | nil =>
    obtain rfl : s = t := by simpa [runEvents] using h
    rfl
  | cons e es ih =>
    simp only [List.cons_append, runEvents] at h ⊢
    cases hu : hostEvent e s with
    | next u => rw [hu] at h; exact ih u h
    | fault r => rw [hu] at h; exact absurd h (by simp)
    | refused r => rw [hu] at h; exact absurd h (by simp)

end Sys2Proof.Machine
end

