-- ==== Sys2Proof/Laws/PerInstr.lean ====
section
/-! SUPPORT. For every command: its encoding lies in its row of the opcode map, (w & mask) = match
(spec/30_encoding.md R55). -/

namespace Sys2Proof.Laws.RowMatch

/-- The word of a command selects its own row of the opcode map. -/
def Statement (i : Instr) : Prop := encode i &&& rowMask = rowMatch i

theorem commandWord_and_rowMask (part ack : Bool) (tag : BitVec 3) (idx imm8 op : Byte) :
    commandWord part ack tag idx imm8 op &&& rowMask = op.setWidth 32 := by
  unfold commandWord rowMask
  ext i hi
  simp only [BitVec.getElem_and, BitVec.getElem_append, BitVec.getElem_setWidth]
  interval_cases i <;> simp

theorem nop : Statement .nop := by simp [Statement, encode, rowMatch, commandWord_and_rowMask]
theorem crcClear : Statement .crcClear := by simp [Statement, encode, rowMatch, commandWord_and_rowMask]
theorem crcUpdate (data : Byte) : Statement (.crcUpdate data) := by
  simp [Statement, encode, rowMatch, commandWord_and_rowMask]
theorem crcBuf : Statement .crcBuf := by simp [Statement, encode, rowMatch, commandWord_and_rowMask]
theorem enc (tag : BitVec 3) (ack part : Bool) : Statement (.enc tag ack part) := by
  simp [Statement, encode, rowMatch, commandWord_and_rowMask]
theorem rewriteId (idx : Nat) (id : Byte) : Statement (.rewriteId idx id) := by
  simp [Statement, encode, rowMatch, commandWord_and_rowMask]
theorem rewriteAll (id : Byte) : Statement (.rewriteAll id) := by
  simp [Statement, encode, rowMatch, commandWord_and_rowMask]
theorem dec : Statement .dec := by simp [Statement, encode, rowMatch, commandWord_and_rowMask]
theorem reasmReset : Statement .reasmReset := by simp [Statement, encode, rowMatch, commandWord_and_rowMask]
theorem reasmAccept : Statement .reasmAccept := by simp [Statement, encode, rowMatch, commandWord_and_rowMask]

end Sys2Proof.Laws.RowMatch
end

