-- ==== Sys2Proof/Laws/Rewrite.lean ====
section
/-! SUPPORT. What rewriting one frame does to OUT_BUF (spec/41_encoder.md R85). -/

namespace Sys2Proof.Machine

open Memory

variable {c : Config} {id : Byte} {m : Memory} {k a : Nat}

theorem wf_rewriteFrame (hm : wf m) : wf (rewriteFrame c id m k) :=
  wf_storeBytes _ _ _ (wf_store hm)

theorem within_rewriteFrame (hm : within m c.outSize) : within (rewriteFrame c id m k) c.outSize :=
  within_storeBytes _ _ _ (within_store hm)

/-- Only the id byte and the two checksum bytes of frame k can change. -/
theorem read_rewriteFrame_outside (h1 : a ≠ frameOffset m k + 1) (h2 : a ≠ frameOffset m k + 3 + frameLength m k)
    (h3 : a ≠ frameOffset m k + 4 + frameLength m k) : read (rewriteFrame c id m k) a = read m a := by
  unfold rewriteFrame
  rw [read_storeBytes_outside _ _ _ (by simp; omega), read_store_ne (Ne.symm h1)]

/-- The rewritten frame: the id in place, and the checksum of the bytes before it, low byte first. -/
theorem load_rewriteFrame (hm : wf m) (hs : frameOffset m (k + 1) ≤ c.outSize) :
    load (rewriteFrame c id m k) (frameOffset m k) (5 + frameLength m k) =
      let head := read m (frameOffset m k) :: id :: load m (frameOffset m k + 2) (1 + frameLength m k)
      head ++ checksumBytes c.crc head := by
  rw [frameOffset_succ] at hs
  have hw : wf (store c.outSize m (frameOffset m k + 1) id) := wf_store hm
  have head : load (store c.outSize m (frameOffset m k + 1) id) (frameOffset m k) (3 + frameLength m k) =
      read m (frameOffset m k) :: id :: load m (frameOffset m k + 2) (1 + frameLength m k) := by
    rw [show 3 + frameLength m k = (1 + frameLength m k) + 1 + 1 by omega, load_succ, load_succ,
      read_store_ne (by omega), read_store_self hm (by omega)]
    congr 2
    exact load_congr fun j _ => read_store_ne (by omega)
  simp only [rewriteFrame]
  rw [show 5 + frameLength m k = (3 + frameLength m k) + 2 by omega, load_add, head,
    show frameOffset m k + 3 + frameLength m k = frameOffset m k + (3 + frameLength m k) by omega,
    load_storeBytes_apart (by omega), head]
  congr 1
  exact load_storeBytes_self (size := c.outSize) hw (by simp; omega)

/-- Rewriting frame k moves no frame. -/
theorem frameOffset_rewriteFrame (j : Nat) : frameOffset (rewriteFrame c id m k) j = frameOffset m j := by
  induction j with
  | zero => rfl
  | succ j ih =>
    have hread : read (rewriteFrame c id m k) (frameOffset m j + 2) = read m (frameOffset m j + 2) := by
      have hk := frameOffset_succ m k
      rcases Nat.lt_trichotomy j k with h | h | h
      · have h1 := frameOffset_mono m (Nat.succ_le_of_lt h)
        rw [Nat.succ_eq_add_one, frameOffset_succ] at h1
        exact read_rewriteFrame_outside (by omega) (by omega) (by omega)
      · subst h
        exact read_rewriteFrame_outside (by omega) (by omega) (by omega)
      · have h1 := frameOffset_mono m (Nat.succ_le_of_lt h)
        rw [Nat.succ_eq_add_one] at h1
        exact read_rewriteFrame_outside (by omega) (by omega) (by omega)
    rw [frameOffset, frameOffset, ih, hread]

theorem frameLength_rewriteFrame (j : Nat) : frameLength (rewriteFrame c id m k) j = frameLength m j := by
  have h1 := frameOffset_succ (rewriteFrame c id m k) j
  have h2 := frameOffset_succ m j
  rw [frameOffset_rewriteFrame, frameOffset_rewriteFrame] at h1
  omega

/-- Every other frame keeps its bytes. -/
theorem frameBytes_rewriteFrame_ne {j : Nat} (h : j ≠ k) :
    frameBytes (rewriteFrame c id m k) j = frameBytes m j := by
  rw [frameBytes, frameBytes, frameOffset_rewriteFrame, frameLength_rewriteFrame]
  refine load_congr fun i hi => ?_
  have hk := frameOffset_succ m k
  have hj := frameOffset_succ m j
  rcases Nat.lt_or_gt_of_ne h with h | h
  · have h1 := frameOffset_mono m (Nat.succ_le_of_lt h)
    rw [Nat.succ_eq_add_one] at h1
    exact read_rewriteFrame_outside (by omega) (by omega) (by omega)
  · have h1 := frameOffset_mono m (Nat.succ_le_of_lt h)
    rw [Nat.succ_eq_add_one] at h1
    exact read_rewriteFrame_outside (by omega) (by omega) (by omega)

/-- A good frame stays good under a new id: only its id byte and its checksum change. -/
theorem frameBytes_rewriteFrame_self {v : Bit} {f : FrameFlags} {old : Byte} {pl : List Byte} (hm : wf m)
    (hs : frameOffset m (k + 1) ≤ c.outSize) (hf : frameBytes m k = wireFrame c.crc v f old pl) :
    frameBytes (rewriteFrame c id m k) k = wireFrame c.crc v f id pl := by
  have hlen : frameLength m k = pl.length := by
    have := congrArg List.length hf
    simpa using this
  rw [frameBytes, frameOffset_rewriteFrame, frameLength_rewriteFrame, load_rewriteFrame hm hs]
  rw [frameBytes, show 5 + frameLength m k = 1 + 1 + (1 + frameLength m k) + 2 by omega, load_add, load_add, load_add]
    at hf
  simp only [wireFrame, frameHead, load_succ, load_zero, List.cons_append, List.nil_append, List.cons.injEq] at hf
  obtain ⟨h0, -, hrest⟩ := hf
  have hpl := (List.append_inj (show _ ++ _ = (BitVec.ofNat 8 pl.length :: pl) ++ _ from hrest)
    (by simp [hlen]; omega)).1
  simp only [wireFrame, frameHead, h0]
  rw [show frameOffset m k + 2 = frameOffset m k + (1 + 1) by omega, hpl]

end Sys2Proof.Machine
end

