-- ==== Sys2Proof/Laws/Safety.lean ====
section
/-! SUPPORT. Which fields each part of the invariant looks at, and the configuration's constraints as inequalities. -/

namespace Sys2Proof

/-- A legal configuration, constraint by constraint (spec/00_scope.md R6 to R11). -/
theorem Config.legal_iff (c : Config) : c.legal = true ↔
    1 ≤ c.maxPayload ∧ c.maxPayload ≤ 254 ∧ 1 ≤ c.maxFragments ∧ c.maxFragments ≤ 254 ∧
      c.maxFragments * c.maxPayload + 1 ≤ c.inSize ∧ c.maxPayload + 5 ≤ c.inSize ∧ c.inSize ≤ 65535 ∧
      c.outSize ≤ 65535 := by
  simp only [legal, payloadOk, fragmentsOk, inSizeHoldsOverlong, inSizeHoldsFrame, inSizeAddressable,
    outSizeAddressable, Bool.and_eq_true, decide_eq_true_eq]
  tauto

namespace Machine

variable {s t : State}

theorem MemoryOk.of_eq (h : MemoryOk s) (hc : t.cfg = s.cfg) (hi : t.inBuf = s.inBuf) (ho : t.outBuf = s.outBuf)
    (hd : t.decBuf = s.decBuf) (hr : t.reasmBuf = s.reasmBuf) : MemoryOk t := by
  obtain ⟨h1, h2, h3, h4, h5, h6, h7, h8⟩ := h
  constructor <;> simpa only [hc, hi, ho, hd, hr]

theorem StatusOk.of_eq (h : StatusOk s) (hs : t.status = s.status) : StatusOk t := by
  obtain ⟨h1, h2, h3⟩ := h
  constructor <;> simpa only [hs]

theorem FramesOk.of_eq (h : FramesOk s) (hc : t.cfg = s.cfg) (he : t.encResult = s.encResult)
    (ho : t.outBuf = s.outBuf) : FramesOk t := by
  obtain ⟨h1, h2, h3, h4⟩ := h
  constructor <;> simpa only [hc, he, ho]

theorem DecodedOk.of_eq (h : DecodedOk s) (hc : t.cfg = s.cfg) (hh : t.decHdr = s.decHdr) (hk : t.decCrc = s.decCrc)
    (hd : t.decBuf = s.decBuf) : DecodedOk t := by
  unfold DecodedOk at *
  simpa only [hc, hh, hk, hd]

theorem ReasmOk.of_eq (h : ReasmOk s) (hc : t.cfg = s.cfg) (hr : t.reasm = s.reasm) (ha : t.accLen = s.accLen) :
    ReasmOk t := by
  obtain ⟨h1, h2, h3, h4, h5, h6, h7⟩ := h
  constructor <;> simpa only [hc, hr, ha]

/-- The state that `finish` and `raise` leave has a good STATUS unless it says MalformedFrame without a reason. -/
theorem StatusOk.of_none {e : ErrCode} (hs : t.status = { err := e, reason := .none }) (h3 : e ≠ .outOfMemory)
    (h5 : e ≠ .malformedFrame) : StatusOk t := by
  constructor <;> simp [hs, h3, h5]

end Machine

end Sys2Proof
end

