-- ==== Sys2Proof/Tests/Slice0.lean ====
section
/-! SUPPORT. Tests of the model against values written out in the spec (spec/95_test_vectors.md unless a line says
otherwise), the refusals of ill-formed terms, and for every obligation with hypotheses a concrete case that meets them.
The configuration is SMALL (M = 4, F = 3, IN_SIZE = 16) unless a test says otherwise. -/

namespace Sys2Proof.Tests

-- Many small kernel evaluations: one after the other, so that their stacks are not all allocated at once.
set_option Elab.async false

open Sys2Proof.Machine

/-! ## States the tests start from -/

/-- Right after reset in the configuration SMALL. -/
def small : State := State.resetOf Config.small

/-- LOADIN: IN_BUF[0 .. LEN) is `bytes`. -/
def input (bytes : List Byte) (s : State) : State :=
  { s with inBuf := Memory.ofDrawn s.cfg.inSize bytes, len := BitVec.ofNat 16 bytes.length }

/-- The bytes 0x41, 0x42, ... that the vectors use, the first `n` of them. -/
def letters (n : Nat) : List Byte := (List.range n).map (fun i => BitVec.ofNat 8 (0x41 + i))

/-- OUT_BUF holds `frames` back to back. -/
def encoded (frames : List (List Byte)) (s : State) : State :=
  { s with
    outBuf := Memory.ofDrawn s.cfg.outSize frames.flatten
    encResult := { frameCount := BitVec.ofNat 8 frames.length, outLen := BitVec.ofNat 16 frames.flatten.length } }

/-- DEC_HDR, DEC_CRC and DEC_BUF as a DEC of the good frame `raw` leaves them. -/
def decodedFrom (raw : List Byte) (s : State) : State :=
  let n := raw.length
  let rx := halfOfBytes (raw.getD (n - 2) 0#8) (raw.getD (n - 1) 0#8)
  { s with
    decHdr := { flags := byteFlags (raw.getD 0 0#8), version := byteVersion (raw.getD 0 0#8), id := raw.getD 1 0#8,
                length := raw.getD 2 0#8, valid := true }
    decCrc := { received := rx, computed := rx }
    decBuf := Memory.ofDrawn s.cfg.decSize ((raw.drop 3).take (n - 5)) }

/-- A message under way: `bytes` accumulated from `count` fragments, the first of them with `flags`. -/
def accumulated (st : ReasmState) (ev : ReasmEvent) (count : Byte) (flags : FrameFlags) (bytes : List Byte)
    (s : State) : State :=
  { s with
    reasm := { state := st, event := ev, fragCount := count, firstFlags := flags }
    accLen := BitVec.ofNat 16 bytes.length
    reasmBuf := Memory.ofDrawn s.cfg.reasmSize bytes }

/-- One host event waiting. -/
def waiting (e : HostEvent) (s : State) : State := { s with pending := [e] }

/-- An outcome is a next state of which `p` holds. -/
def nextIs (r : Result) (p : State → Bool) : Bool :=
  match r with
  | .next t => p t
  | .fault _ => false
  | .refused _ => false

theorem exists_of_nextIs {r : Result} {p : State → Bool} (h : nextIs r p = true) : ∃ t, r = .next t ∧ p t = true := by
  cases r with
  | next t => exact ⟨t, rfl, h⟩
  | fault _ => cases h
  | refused _ => cases h

/-- The four frames of the worked example, ENC DATA, ACK of ten bytes. -/
def frame0 : List Byte := [0x1A#8, 0x00#8, 0x04#8, 0x41#8, 0x42#8, 0x43#8, 0x44#8, 0xC7#8, 0x87#8]
def frame1 : List Byte := [0x1A#8, 0x00#8, 0x04#8, 0x45#8, 0x46#8, 0x47#8, 0x48#8, 0xBE#8, 0x9C#8]
def frame2 : List Byte := [0x1A#8, 0x00#8, 0x02#8, 0x49#8, 0x4A#8, 0x42#8, 0x63#8]
def frame3 : List Byte := [0x1B#8, 0x00#8, 0x00#8, 0x0E#8, 0x7F#8]
def fourFrames : State := encoded [frame0, frame1, frame2, frame3] small

/-- DATA frames with PARTIAL and without, and FINISH frames without and with a payload. -/
def dataPartial : List Byte := [0x12#8, 0x00#8, 0x02#8, 0x45#8, 0x46#8, 0x8E#8, 0xE5#8]
def dataWhole : List Byte := [0x02#8, 0x00#8, 0x02#8, 0x45#8, 0x46#8, 0xD4#8, 0xE1#8]
def stationPartial : List Byte := [0x14#8, 0x00#8, 0x02#8, 0x45#8, 0x46#8, 0x0B#8, 0x28#8]
def finishEmpty : List Byte := [0x13#8, 0x00#8, 0x00#8, 0xAF#8, 0xD6#8]
def finishLoaded : List Byte := [0x13#8, 0x00#8, 0x01#8, 0x45#8, 0xEB#8, 0x2F#8]

/-- Four bytes collected from one DATA fragment. -/
def collectingOne : State := accumulated .collecting .started 1#8 0x12#7 (letters 4) small

/-- Twelve bytes collected from F = 3 DATA fragments. -/
def collectingAll : State := accumulated .collecting .appended 3#8 0x12#7 (letters 12) small

/-! ## A check that the invariant holds of a concrete state -/

/-- `bytes` is a good wire frame, checked from its own header. -/
def isWireFrame (c : Config) (bytes : List Byte) : Bool :=
  let payload := (bytes.drop 3).take (bytes.length - 5)
  decide (payload.length ≤ c.maxPayload) && flagsValid (byteFlags (bytes.getD 0 0#8)) &&
    decide (bytes = wireFrame c.crc (byteVersion (bytes.getD 0 0#8)) (byteFlags (bytes.getD 0 0#8)) (bytes.getD 1 0#8)
      payload)

theorem wireFrameOk_of_check {c : Config} {bytes : List Byte} (h : isWireFrame c bytes = true) :
    WireFrameOk c bytes := by
  simp only [isWireFrame, Bool.and_eq_true, decide_eq_true_eq] at h
  exact ⟨_, _, _, _, h.1.1, h.1.2, h.2⟩

/-- MemoryOk, decided. -/
def memoryCheck (s : State) : Bool :=
  decide (s.inBuf.wf ∧ s.inBuf.within s.cfg.inSize) && decide (s.outBuf.wf ∧ s.outBuf.within s.cfg.outSize) &&
    decide (s.decBuf.wf ∧ s.decBuf.within s.cfg.decSize) && decide (s.reasmBuf.wf ∧ s.reasmBuf.within s.cfg.reasmSize)

theorem memoryOk_of_check {s : State} (h : memoryCheck s = true) : MemoryOk s := by
  simp only [memoryCheck, Bool.and_eq_true, decide_eq_true_eq] at h
  obtain ⟨⟨⟨⟨a, b⟩, c, d⟩, e, f⟩, g, i⟩ := h
  exact ⟨a, b, c, d, e, f, g, i⟩

/-- StatusOk, decided. -/
def statusCheck (s : State) : Bool :=
  decide (s.status.err ≠ .outOfMemory ∧ s.status.reason ≠ .invalidVersion) &&
    decide (s.status.reason ≠ .none ↔ s.status.err = .malformedFrame)

theorem statusOk_of_check {s : State} (h : statusCheck s = true) : StatusOk s := by
  simp only [statusCheck, Bool.and_eq_true, decide_eq_true_eq] at h
  exact ⟨h.1.1, h.1.2, h.2⟩

/-- FramesOk, decided. -/
def framesCheck (s : State) : Bool :=
  decide (s.encResult.frameCount.toNat ≤ s.cfg.maxFragments + 1) && decide (s.encResult.outLen.toNat ≤ s.cfg.outSize) &&
    decide (frameOffset s.outBuf s.encResult.frameCount.toNat = s.encResult.outLen.toNat) &&
    (List.range s.encResult.frameCount.toNat).all (fun k => isWireFrame s.cfg (frameBytes s.outBuf k))

theorem framesOk_of_check {s : State} (h : framesCheck s = true) : FramesOk s := by
  simp only [framesCheck, Bool.and_eq_true, decide_eq_true_eq, List.all_eq_true, List.mem_range] at h
  exact ⟨h.1.1.1, h.1.1.2, h.1.2, fun k hk => wireFrameOk_of_check (h.2 k hk)⟩

/-- DecodedOk, decided. -/
def decodedCheck (s : State) : Bool :=
  decide (s.decHdr = .zero ∧ s.decCrc = .zero) ||
    (flagsValid s.decHdr.flags && decide (s.decHdr.length.toNat ≤ s.cfg.maxPayload) &&
      decide (s.decCrc.received = s.decCrc.computed) &&
      decide (s.decCrc.computed = checksum s.cfg.crc
        (frameHead s.decHdr.version s.decHdr.flags s.decHdr.id (s.decBuf.load 0 s.decHdr.length.toNat))))

theorem decodedOk_of_check {s : State} (h : decodedCheck s = true) : DecodedOk s := by
  simp only [decodedCheck, Bool.or_eq_true, Bool.and_eq_true, decide_eq_true_eq] at h
  exact h.imp id (fun h => ⟨h.1.1.1, h.1.1.2, h.1.2, h.2⟩)

/-- ReasmOk, decided. -/
def reasmCheck (s : State) : Bool :=
  let r := s.reasm
  decide (r.fragCount.toNat ≤ s.cfg.maxFragments) && decide (s.accLen.toNat ≤ r.fragCount.toNat * s.cfg.maxPayload) &&
    decide (r.state = .idle → r.fragCount = 0#8 ∧ r.firstFlags = 0#7 ∧
      (r.event = .none ∨ r.event = .dropped ∨ r.event = .strayFinish)) &&
    decide (r.state ≠ .idle → r.fragCount ≠ 0#8 ∧ flagsValid r.firstFlags = true ∧ flagsTag r.firstFlags ≠ tagFinish) &&
    decide (r.state = .collecting → flagsPartial r.firstFlags = true ∧
      (r.event = .started ∨ r.event = .appended ∨ r.event = .dropped)) &&
    decide (r.state = .complete → r.event = .completeSingle ∨ r.event = .completeFin ∨ r.event = .ignoredTerminal) &&
    decide (r.state = .failed → r.event = .failTagMismatch ∨ r.event = .failOverflow ∨ r.event = .failProtocol ∨
      r.event = .ignoredTerminal)

theorem reasmOk_of_check {s : State} (h : reasmCheck s = true) : ReasmOk s := by
  simp only [reasmCheck, Bool.and_eq_true, decide_eq_true_eq] at h
  exact ⟨h.1.1.1.1.1.1, h.1.1.1.1.1.2, h.1.1.1.1.2, h.1.1.1.2, h.1.1.2, h.1.2, h.2⟩

/-- The invariant, decided. -/
def invCheck (s : State) : Bool :=
  s.cfg.legal && memoryCheck s && statusCheck s && framesCheck s && decodedCheck s && reasmCheck s

theorem inv_of_check {s : State} (h : invCheck s = true) : Inv s := by
  simp only [invCheck, Bool.and_eq_true] at h
  exact ⟨h.1.1.1.1.1, memoryOk_of_check h.1.1.1.1.2, statusOk_of_check h.1.1.1.2, framesOk_of_check h.1.1.2,
    decodedOk_of_check h.1.2, reasmOk_of_check h.2⟩

/-- EncReady, decided. -/
def readyCheck (s : State) (tag : BitVec 3) : Bool :=
  decide (s.len.toNat ≤ s.cfg.inSize) && decide (1 ≤ tag.toNat ∧ tag.toNat ≤ 6) &&
    decide (s.len.toNat ≤ s.cfg.maxFragments * s.cfg.maxPayload)

theorem ready_of_check {s : State} {tag : BitVec 3} (h : readyCheck s tag = true) : EncReady s tag := by
  simp only [readyCheck, Bool.and_eq_true, decide_eq_true_eq] at h
  exact ⟨h.1.1, h.1.2.1, h.1.2.2, h.2⟩

theorem inv_small : Inv small := inv_of_check (by decide +kernel)

/-- A payload of 3 bytes is below M, 4 is M, 12 is F*M, 13 is one too many. -/
theorem inv_input : ∀ n ∈ [3, 4, 12, 13], Inv (input (letters n) small) :=
  fun n h => inv_of_check ((by decide +kernel :
    ∀ n ∈ [3, 4, 12, 13], invCheck (input (letters n) small) = true) n h)

theorem inv_fourFrames : Inv fourFrames := inv_of_check (by decide +kernel)

/-- The frames the reassembly tests decode. -/
def rawFrames : List (List Byte) := [dataPartial, dataWhole, stationPartial, finishEmpty, finishLoaded]

theorem inv_decoded : ∀ raw ∈ rawFrames, ∀ s ∈ [small, collectingOne, collectingAll], Inv (decodedFrom raw s) :=
  fun raw h s hs => inv_of_check ((by decide +kernel :
    ∀ raw ∈ rawFrames, ∀ s ∈ [small, collectingOne, collectingAll], invCheck (decodedFrom raw s) = true) raw h s hs)

/-! ## Well-formedness refuses ill-formed terms -/

/-- IDX is 8 bits (30_encoding.md R52): 255 is a frame index, 256 is none. -/
theorem test_wf_idx : (Instr.rewriteId 255 0#8).wf = true ∧ (Instr.rewriteId 256 0#8).wf = false := by decide

/-- 00_scope.md R6: M = 0 and M = 255. -/
theorem test_wf_payload : { Config.small with maxPayload := 0 }.payloadOk = false ∧
    { Config.small with maxPayload := 255 }.payloadOk = false ∧ Config.small.payloadOk = true := by decide

/-- 00_scope.md R7: F = 0 and F = 255. -/
theorem test_wf_fragments : { Config.small with maxFragments := 0 }.fragmentsOk = false ∧
    { Config.small with maxFragments := 255 }.fragmentsOk = false ∧ Config.small.fragmentsOk = true := by decide

/-- 00_scope.md R8: IN_SIZE = F*M has no room for the overlong payload, F*M + 1 has. -/
theorem test_wf_inSize_overlong : { Config.small with inSize := 12 }.inSizeHoldsOverlong = false ∧
    { Config.small with inSize := 13 }.inSizeHoldsOverlong = true := by decide

/-- 00_scope.md R8: with F = 1, IN_SIZE = M + 4 has no room for a full frame, M + 5 has. -/
theorem test_wf_inSize_frame : { Config.small with maxFragments := 1, inSize := 8 }.inSizeHoldsFrame = false ∧
    { Config.small with maxFragments := 1, inSize := 9 }.inSizeHoldsFrame = true := by decide

/-- 00_scope.md R8: LEN has 16 bits. -/
theorem test_wf_inSize_addressable : { Config.small with inSize := 65536 }.inSizeAddressable = false ∧
    { Config.small with inSize := 65535 }.inSizeAddressable = true := by decide

/-- 00_scope.md R9: 254 fragments of 254 bytes need an OUT_BUF of 65791 bytes. -/
theorem test_wf_outSize : { Config.small with maxFragments := 254, maxPayload := 254 }.outSizeAddressable = false := by
  decide

/-- 00_scope.md R11: REF and SMALL are legal, and one broken constraint makes a configuration illegal. -/
theorem test_wf_configurations : Config.reference.legal = true ∧ Config.small.legal = true ∧
    { Config.small with inSize := 12 }.legal = false := by decide

/-! ## Decoding the words of the spec -/

/-- Every row's word, bit by bit from 30_encoding.md R52 and R55: RSV PART ACK TAG | IDX | IMM8 | OP. -/
theorem test_decode_rows :
    decode 0b000_0_0_000_00000000_00000000_00000000#32 = .ok .nop ∧
    decode 0b000_0_0_000_00000000_00000000_00000001#32 = .ok .crcClear ∧
    decode 0b000_0_0_000_00000000_10100101_00000010#32 = .ok (.crcUpdate 0xA5#8) ∧
    decode 0b000_0_0_000_00000000_00000000_00000011#32 = .ok .crcBuf ∧
    decode 0b000_1_0_100_00000000_00000000_00010000#32 = .ok (.enc 4#3 false true) ∧
    decode 0b000_0_1_011_00000000_00000000_00010000#32 = .ok (.enc 3#3 true false) ∧
    decode 0b000_0_0_000_11000001_00110101_00010001#32 = .ok (.rewriteId 0xC1 0x35#8) ∧
    decode 0b000_0_0_000_00000000_10010110_00010010#32 = .ok (.rewriteAll 0x96#8) ∧
    decode 0b000_0_0_000_00000000_00000000_00100000#32 = .ok .dec ∧
    decode 0b000_0_0_000_00000000_00000000_00110000#32 = .ok .reasmReset ∧
    decode 0b000_0_0_000_00000000_00000000_00110001#32 = .ok .reasmAccept := by decide +kernel

/-- Words the spec says are illegal (§2.6) or whose unused fields are ignored (§2.3, §2.4). -/
theorem test_decode_reserved_and_unused :
    [0x00000004#32, 0x00000013#32, 0x00000021#32, 0x00000032#32, 0x000000FF#32].map decode =
      List.replicate 5 (.error .reservedOpcode) ∧
    [0x20000020#32, 0x80000031#32, 0xE0000000#32, 0x22000010#32].map decode =
      List.replicate 4 (.error .reservedBits) ∧
    decode 0x0F00FF11#32 = .ok (.rewriteId 0 0xFF#8) ∧ decode 0x00FFFF20#32 = .ok .dec := by decide +kernel

/-- A word numbered as the opcode table numbers it: 16 bits of it are the low half, the rest 0. -/
theorem test_decodeTableWord : decodeTableWord 32 0x00010711 = some (.rewriteId 1 0x07#8) ∧
    decodeTableWord 16 0xFFFF3102 = some (.crcUpdate 0x31#8) ∧ decodeTableWord 32 0x20000000 = none := by decide

/-- The assembler spelling of 30_encoding.md R68 and the words of §2 and §3. -/
theorem test_assemble :
    (assemble "ENC" ["DATA", "ACK"]).map encode = some 0x0A000010#32 ∧
    (assemble "ENC" ["SYNCHRO", "PARTIAL"]).map encode = some 0x16000010#32 ∧
    (assemble "ENC" ["#7"]).map encode = some 0x07000010#32 ∧
    (assemble "REWRITE.ID" ["1", "0x07"]).map encode = some 0x00010711#32 ∧
    (assemble "REWRITE.ALL" ["0x2A"]).map encode = some 0x00002A12#32 ∧
    (assemble "CRC.UPDATE" ["0x31"]).map encode = some 0x00003102#32 ∧
    (assemble "REASM.ACCEPT" []).map encode = some 0x00000031#32 ∧
    assemble "CRC.UPDATE" ["256"] = none := by decide +kernel

/-- The numbers of 30_encoding.md R64 to R67. -/
theorem test_codes :
    [ErrCode.ok, .invalidArgument, .unsupportedType, .outOfMemory, .fragmentLimitExceeded, .malformedFrame,
      .illegalCommand].map ErrCode.code = [0#4, 1#4, 2#4, 3#4, 4#4, 5#4, 6#4] ∧
    [FrameReason.none, .truncated, .checksumMismatch, .oversize, .lengthMismatch, .invalidVersion,
      .invalidFlags].map FrameReason.code = [0#4, 1#4, 2#4, 3#4, 4#4, 5#4, 6#4] ∧
    [ReasmState.idle, .collecting, .complete, .failed].map ReasmState.code = [0#2, 1#2, 2#2, 3#2] ∧
    [ReasmEvent.none, .started, .appended, .completeSingle, .completeFin, .dropped, .strayFinish, .ignoredTerminal,
      .failTagMismatch, .failOverflow, .failProtocol].map ReasmEvent.code =
      [0#4, 1#4, 2#4, 3#4, 4#4, 5#4, 6#4, 7#4, 8#4, 9#4, 10#4] := by decide

/-! ## The commands -/

/-- §2.6: NOP after a DEC that failed with 0x25 leaves STATUS 0. -/
theorem test_nop : exec .nop { small with status := { err := .malformedFrame, reason := .checksumMismatch } } =
    .next small := rfl

/-- The bytes 0x31 .. 0x39 of §2.1. -/
def digits : List Byte := [0x31#8, 0x32#8, 0x33#8, 0x34#8, 0x35#8, 0x36#8, 0x37#8, 0x38#8, 0x39#8]

/-- §2.1: the checksum table, the default parameters and the two other parameter sets. -/
theorem test_checksum_table :
    checksum .ccittFalse [] = 0xFFFF#16 ∧ checksum .ccittFalse [0x00#8] = 0xE1F0#16 ∧
    checksum .ccittFalse [0xFF#8] = 0xFF00#16 ∧ checksum .ccittFalse [0x41#8] = 0xB915#16 ∧
    checksum .ccittFalse (letters 4) = 0xBFFA#16 ∧ checksum .ccittFalse (List.replicate 16 0x00#8) = 0x6A0A#16 ∧
    checksum .ccittFalse digits = 0x29B1#16 ∧
    checksum { CrcParams.ccittFalse with init := 0x0000#16 } digits = 0x31C3#16 ∧
    checksum { CrcParams.ccittFalse with init := 0x0000#16, refin := true, refout := true } digits = 0x2189#16 := by
  refine ⟨?_, ?_, ?_, ?_, ?_, ?_, ?_, ?_, ?_⟩ <;> decide +kernel

/-- §2.1: CRC.CLEAR gives INIT. -/
theorem test_crc_clear : nextIs (exec .crcClear { small with crcState := 0x3DBA#16 })
    (fun t => crcWord t.cfg.crc t.crcState == 0xFFFFFFFF#32) = true := by decide +kernel

/-- §2.1: three CRC.UPDATE rows, and the step from 0x29B1 by 0x00. -/
theorem test_crc_update :
    nextIs (exec (.crcUpdate 0x31#8) small) (fun t => t.crcState == 0xC782#16 && statusWord t.status == 0#32) = true ∧
    nextIs (exec (.crcUpdate 0x32#8) { small with crcState := 0xC782#16 }) (fun t => t.crcState == 0x3DBA#16) = true ∧
    nextIs (exec (.crcUpdate 0x33#8) { small with crcState := 0x3DBA#16 }) (fun t => t.crcState == 0x5BCE#16) = true ∧
    nextIs (exec (.crcUpdate 0x00#8) { small with crcState := 0x29B1#16 }) (fun t => t.crcState == 0x044B#16) = true := by
  decide +kernel

/-- §2.1: CRC.BUF of the nine digits, and of more bytes than IN_BUF holds. -/
theorem test_crc_buf :
    nextIs (exec .crcBuf (input digits small))
      (fun t => crcWord t.cfg.crc t.crcState == 0x29B129B1#32) = true ∧
    nextIs (exec .crcBuf { small with len := 17#16 })
      (fun t => statusWord t.status == 0x01#32 && crcWord t.cfg.crc t.crcState == 0xFFFFFFFF#32) = true := by
  decide +kernel

/-- A row of the encoder's table: tag, ACK, PARTIAL and LEN give ENC_RESULT and the bytes of OUT_BUF. -/
def encGives (tag : BitVec 3) (ack part : Bool) (n : Nat) (result : Word) (bytes : List Byte) : Bool :=
  nextIs (exec (.enc tag ack part) (input (letters n) small)) (fun t =>
    encResultWord t.encResult == result && t.outBuf.load 0 bytes.length == bytes && statusWord t.status == 0#32)

/-- §2.2: rows of the encoder's table: empty, L = M, L = 2M + 2, PARTIAL below M, TAG FINISH (no sentinel), PARTIAL on a
fragmented SYNCHRO. -/
theorem test_enc_rows :
    encGives 2#3 false false 0 0x00050001#32 [0x02#8, 0x00#8, 0x00#8, 0xFC#8, 0xA2#8] = true ∧
    encGives 2#3 true false 4 0x000E0002#32 (frame0 ++ frame3) = true ∧
    encGives 2#3 true false 10 0x001E0004#32 (frame0 ++ frame1 ++ frame2 ++ frame3) = true ∧
    encGives 2#3 true true 3 0x00080001#32 [0x1A#8, 0x00#8, 0x03#8, 0x41#8, 0x42#8, 0x43#8, 0xDE#8, 0x30#8] = true ∧
    encGives 3#3 true false 5 0x000F0002#32 [0x1B#8, 0x00#8, 0x04#8, 0x41#8, 0x42#8, 0x43#8, 0x44#8, 0xA6#8, 0x3F#8,
      0x1B#8, 0x00#8, 0x01#8, 0x45#8, 0x28#8, 0xAA#8] = true ∧
    encGives 6#3 false true 8 0x00170003#32 [0x16#8, 0x00#8, 0x04#8, 0x41#8, 0x42#8, 0x43#8, 0x44#8, 0xAC#8, 0xD5#8,
      0x16#8, 0x00#8, 0x04#8, 0x45#8, 0x46#8, 0x47#8, 0x48#8, 0xD5#8, 0xCE#8, 0x13#8, 0x00#8, 0x00#8, 0xAF#8,
      0xD6#8] = true := by decide +kernel

/-- §2.2: the version bit, and the errors with their priority; OUT_BUF keeps its bytes on an error. -/
theorem test_enc_version_and_errors :
    nextIs (exec (.enc 4#3 false false) { input (letters 2) small with cfgVersion := 1#1 })
      (fun t => t.outBuf.load 0 7 == [0x84#8, 0x00#8, 0x02#8, 0x41#8, 0x42#8, 0xC1#8, 0x82#8]) = true ∧
    ∀ r ∈ [(2#3, 13, 0x04#32), (0#3, 2, 0x02#32), (7#3, 2, 0x02#32), (2#3, 17, 0x01#32), (7#3, 17, 0x01#32)],
      nextIs (exec (.enc r.1 false false) { fourFrames with len := BitVec.ofNat 16 r.2.1 })
        (fun t => statusWord t.status == r.2.2 && encResultWord t.encResult == 0#32 &&
          t.outBuf == fourFrames.outBuf) = true := by decide +kernel

/-- §2.3: REWRITE.ID 1, 0x07 and REWRITE.ID 3, 0xFF on the four frames; k = FRAME_COUNT is an error. -/
theorem test_rewrite_id :
    nextIs (exec (.rewriteId 1 0x07#8) fourFrames) (fun t =>
      frameBytes t.outBuf 1 == [0x1A#8, 0x07#8, 0x04#8, 0x45#8, 0x46#8, 0x47#8, 0x48#8, 0xFF#8, 0x54#8] &&
      frameBytes t.outBuf 0 == frame0 && frameBytes t.outBuf 2 == frame2 && frameBytes t.outBuf 3 == frame3) = true ∧
    nextIs (exec (.rewriteId 3 0xFF#8) fourFrames) (fun t =>
      frameBytes t.outBuf 3 == [0x1B#8, 0xFF#8, 0x00#8, 0xF1#8, 0x7C#8]) = true ∧
    nextIs (exec (.rewriteId 4 0x05#8) fourFrames) (fun t =>
      statusWord t.status == 0x01#32 && t.outBuf == fourFrames.outBuf) = true := by decide +kernel

/-- §1.7: the old checksum bytes are never read. -/
theorem test_rewrite_id_ignores_old_checksum :
    nextIs (exec (.rewriteId 0 0x07#8)
      (encoded [[0x1A#8, 0x00#8, 0x04#8, 0x45#8, 0x46#8, 0x47#8, 0x48#8, 0x00#8, 0x00#8]] small)) (fun t =>
      frameBytes t.outBuf 0 == [0x1A#8, 0x07#8, 0x04#8, 0x45#8, 0x46#8, 0x47#8, 0x48#8, 0xFF#8, 0x54#8]) = true := by
  decide +kernel

/-- §2.3: REWRITE.ALL 0x2A. -/
theorem test_rewrite_all :
    nextIs (exec (.rewriteAll 0x2A#8) fourFrames) (fun t =>
      frameBytes t.outBuf 0 == [0x1A#8, 0x2A#8, 0x04#8, 0x41#8, 0x42#8, 0x43#8, 0x44#8, 0xCD#8, 0x34#8] &&
      frameBytes t.outBuf 1 == [0x1A#8, 0x2A#8, 0x04#8, 0x45#8, 0x46#8, 0x47#8, 0x48#8, 0xB4#8, 0x2F#8] &&
      frameBytes t.outBuf 2 == [0x1A#8, 0x2A#8, 0x02#8, 0x49#8, 0x4A#8, 0xA7#8, 0x3C#8] &&
      frameBytes t.outBuf 3 == [0x1B#8, 0x2A#8, 0x00#8, 0x23#8, 0x96#8]) = true ∧
    nextIs (exec (.rewriteAll 0x2A#8) small) (fun t => statusWord t.status == 0x01#32) = true := by decide +kernel

/-- §2.4: frames that decode, with DEC_HDR and DEC_CRC. -/
theorem test_dec_ok : ∀ r ∈ [(frame0, 0x0104001A#32, 0x87C787C7#32), (frame3, 0x0100001B#32, 0x7F0E7F0E#32),
      ([0x8E#8, 0x55#8, 0x03#8, 0x78#8, 0x79#8, 0x7A#8, 0x9F#8, 0xEB#8], 0x0103558E#32, 0xEB9FEB9F#32)],
    nextIs (exec .dec (input r.1 small)) (fun t =>
      statusWord t.status == 0#32 && decHdrWord t.decHdr == r.2.1 && decCrcWord t.decCrc == r.2.2 &&
      t.decBuf.load 0 (r.1.length - 5) == (r.1.drop 3).take (r.1.length - 5)) = true := by decide +kernel

/-- §2.4: one frame for each check that fails, with STATUS. -/
theorem test_dec_errors : ∀ r ∈ [
      ([0x1A#8, 0x00#8, 0x04#8, 0x41#8], 0x15#32),
      ([0x0A#8, 0x00#8, 0x02#8, 0x41#8, 0x42#8, 0x6F#8, 0xB9#8], 0x25#32),
      ([0x02#8, 0x00#8, 0x05#8, 0x41#8, 0x42#8, 0x43#8, 0x44#8, 0x45#8, 0xC0#8, 0x58#8], 0x35#32),
      ([0x02#8, 0x00#8, 0x02#8, 0x41#8, 0x42#8, 0x43#8, 0x44#8, 0x94#8, 0xEE#8], 0x45#32),
      ([0x00#8, 0x00#8, 0x02#8, 0x41#8, 0x42#8, 0x17#8, 0x29#8], 0x65#32),
      ([0x22#8, 0x00#8, 0x02#8, 0x41#8, 0x42#8, 0x20#8, 0x65#8], 0x65#32)],
    nextIs (exec .dec (input r.1 (decodedFrom frame0 small))) (fun t =>
      statusWord t.status == r.2 && decHdrWord t.decHdr == 0#32 && decCrcWord t.decCrc == 0#32 &&
      t.decBuf.load 0 4 == letters 4) = true := by decide +kernel

/-- §2.5, sequence N: REASM.RESET leaves DEC_HDR. -/
theorem test_reasm_reset :
    nextIs (exec .reasmReset { decodedFrom dataWhole collectingOne with status := { err := .illegalCommand, reason := .none } })
      (fun t => reasmWord t.reasm == 0#32 && t.accLen == 0#16 && statusWord t.status == 0#32 &&
        decHdrWord t.decHdr == 0x01020002#32 && t.reasmBuf.load 0 4 == letters 4) = true := by decide +kernel

/-- §2.5: ACCEPT from Idle: sequences E, C, M, and a single whole frame. -/
theorem test_accept_idle :
    nextIs (exec .reasmAccept (decodedFrom frame0 small)) (fun t =>
      reasmWord t.reasm == 0x001A0111#32 && t.accLen == 4#16 && t.reasmBuf.load 0 4 == letters 4 &&
      decHdrWord t.decHdr == 0x0004001A#32) = true ∧
    nextIs (exec .reasmAccept (decodedFrom frame3 small)) (fun t => reasmWord t.reasm == 0x00000060#32) = true ∧
    nextIs (exec .reasmAccept small) (fun t => reasmWord t.reasm == 0x00000050#32) = true ∧
    nextIs (exec .reasmAccept (decodedFrom dataWhole small)) (fun t =>
      reasmWord t.reasm == 0x00020132#32 && t.accLen == 2#16) = true := by decide +kernel

/-- §2.5: ACCEPT while Collecting: sequences F, G, H, I, J, K; and in Complete: sequence A. -/
theorem test_accept_collecting :
    nextIs (exec .reasmAccept (decodedFrom dataPartial collectingOne)) (fun t =>
      reasmWord t.reasm == 0x00120221#32 && t.accLen == 6#16 && t.reasmBuf.load 0 6 == letters 6) = true ∧
    (∀ r ∈ [(finishEmpty, 0x00120142#32), (stationPartial, 0x00120183#32), (dataWhole, 0x001201A3#32),
        (finishLoaded, 0x001201A3#32)],
      nextIs (exec .reasmAccept (decodedFrom r.1 collectingOne)) (fun t =>
        reasmWord t.reasm == r.2 && t.accLen == 4#16) = true) ∧
    nextIs (exec .reasmAccept (decodedFrom dataPartial collectingAll)) (fun t =>
      reasmWord t.reasm == 0x00120393#32 && t.reasmBuf == collectingAll.reasmBuf) = true ∧
    nextIs (exec .reasmAccept (decodedFrom finishEmpty collectingAll)) (fun t =>
      reasmWord t.reasm == 0x00120342#32) = true ∧
    nextIs (exec .reasmAccept (decodedFrom dataWhole (accumulated .complete .completeSingle 1#8 0x0A#7 (letters 2) small)))
      (fun t => reasmWord t.reasm == 0x000A0172#32 && t.reasmBuf.load 0 2 == letters 2) = true := by decide +kernel

/-! ## The host's side -/

/-- §2.6: reads of a reserved and of a misaligned offset, writes of STATUS, LEN and CFG, an illegal word. -/
theorem test_host_registers :
    nextIs (step (waiting (.readReg 0x40#8) small)) (fun t => t.response == .word 0#32) = true ∧
    nextIs (step (waiting (.readReg 0x06#8) { small with len := 0xFFFF#16 })) (fun t => t.response == .word 0#32) = true ∧
    nextIs (step (waiting (.writeReg 0x0C#8 0xFFFFFFFF#32) small)) (fun t => t == small) = true ∧
    nextIs (step (waiting (.writeReg 0x04#8 0xFFFF0010#32) small)) (fun t => regWord t 0x04#8 == 0x00000010#32) = true ∧
    nextIs (step (waiting (.writeReg 0x08#8 0x00000003#32) small)) (fun t => regWord t 0x08#8 == 0x00000001#32) = true ∧
    nextIs (step (waiting (.writeReg 0x00#8 0x000000FF#32) small)) (fun t =>
      regWord t 0x0C#8 == 0x06#32 && regWord t 0x00#8 == 0x000000FF#32 &&
      t == { small with cmdWord := 0x000000FF#32, status := { err := .illegalCommand, reason := .none } }) = true := by
  decide +kernel

/-- §2.6 and the configurations: PARAM0 to PARAM3 and CRC after reset. -/
theorem test_reset_reads :
    [0x28#8, 0x2C#8, 0x30#8, 0x34#8, 0x10#8].map (regWord State.reset) =
      [0x080008FA#32, 0x07D007FD#32, 0xFFFF1021#32, 0x00000000#32, 0xFFFFFFFF#32] ∧
    [0x28#8, 0x2C#8].map (regWord small) = [0x00100304#32, 0x000C0020#32] := by decide +kernel

/-- §2.6: a host read of IN_BUF[IN_SIZE] gives 0, and a host write of OUT_BUF[0] has no effect. -/
theorem test_host_buffers :
    nextIs (step (waiting (.readBuf .inBuf 16) (input (letters 16) small))) (fun t => t.response == .byte 0#8) = true ∧
    nextIs (step (waiting (.readBuf .inBuf 15) (input (letters 16) small))) (fun t => t.response == .byte 0x50#8) = true ∧
    nextIs (step (waiting (.writeBuf .outBuf 0 0x55#8) fourFrames)) (fun t => t == fourFrames) = true := by
  decide +kernel

/-- A word placed where the step takes its command runs as the first command after reset. -/
theorem test_withFetchWord : nextIs (step (State.reset.withFetchWord 32 0x00003102)) (fun t =>
    t.crcState == 0xC782#16 && t.cmdWord == 0x00003102#32 && t.pending == []) = true := by decide +kernel

/-- 10_state.md R36 with R32: the reset input draws the buffers and keeps the configuration. -/
theorem test_reset_event :
    nextIs (step (waiting (.reset { inBuf := [0xAA#8], outBuf := [], decBuf := [0xBB#8], reasmBuf := [] })
      (decodedFrom frame0 fourFrames))) (fun t =>
        t.cfg == Config.small && t.encResult == .zero && t.decHdr == .zero && t.inBuf.load 0 2 == [0xAA#8, 0x00#8] &&
        t.decBuf.load 0 4 == [0xBB#8, 0x00#8, 0x00#8, 0x00#8]) = true := by decide +kernel

/-- 20_memory.md R38 in canonical form: writing the byte an unlisted address reads as removes the cell. -/
theorem test_memory_canonical :
    Memory.write [(1, 0x41#8), (3, 0x43#8)] 1 0x00#8 = [(3, 0x43#8)] ∧
    Memory.write [(1, 0x41#8), (3, 0x43#8)] 2 0x42#8 = [(1, 0x41#8), (2, 0x42#8), (3, 0x43#8)] := by decide

/-! ## Every obligation's hypotheses are met

Each theorem gives a concrete state and operands that meet the hypotheses of the obligation it is named after, one case
for each of its clauses, at a boundary where the clause has a range. -/

/-- A next state exists whenever the outcome can be computed to one. -/
def answers (r : Result) : Bool := nextIs r (fun _ => true)

/-- The state holds `bytes` as its raw frame. -/
def holdsCheck (s : State) (bytes : List Byte) : Bool :=
  decide (s.len.toNat = bytes.length) && decide (s.inBuf.load 0 bytes.length = bytes)

theorem holdsInput_of_check {s : State} {bytes : List Byte} (h : holdsCheck s bytes = true) : HoldsInput s bytes := by
  simp only [holdsCheck, Bool.and_eq_true, decide_eq_true_eq] at h
  exact h

theorem witness_DecodeOfEncodeIsTheCommand : (Instr.rewriteId 255 0xFF#8).wf = true := by decide

theorem witness_DecodeReadsExactlyTheUsedBits : decode 0x1FFF3102#32 = .ok (.crcUpdate 0x31#8) ∧
    (Instr.crcUpdate 0x31#8).wf = true ∧
    0x1FFF3102#32 &&& usedMask (.crcUpdate 0x31#8) = encode (.crcUpdate 0x31#8) := by decide +kernel

theorem witness_DecodeSelectsTheRowThatMatches : decode 0x07000010#32 = .ok (.enc 7#3 false false) ∧
    0x07000010#32 &&& 0xE00000FF#32 = rowMatch (.enc 0#3 true true) ∧
    ∀ i, 0x000000FF#32 &&& 0xE00000FF#32 ≠ rowMatch i :=
  ⟨by decide +kernel, by decide +kernel, fun i => by cases i <;> simp [rowMatch]⟩

/-- The two ends of every reserved range, the lowest RSV bit, and the rows next to them. -/
theorem witness_ReservedWordsRaiseIllegalCommand (w : Word) :
    (waiting (.writeReg 0x00#8 w) small).cfg.legal = true ∧
    (waiting (.writeReg 0x00#8 w) small).pending = .writeReg 0x00#8 w :: [] ∧
    ([0x04, 0x0F, 0x13, 0x1F, 0x21, 0x2F, 0x32, 0xFF].all (fun op =>
      decide ((0x04 ≤ op ∧ op ≤ 0x0F) ∨ (0x13 ≤ op ∧ op ≤ 0x1F) ∨ (0x21 ≤ op ∧ op ≤ 0x2F) ∨
        (0x32 ≤ op ∧ op ≤ 0xFF))) = true) ∧
    (0x20000000#32).toNat / 2 ^ 29 ≠ 0 ∧ (0x1FFFFF00#32).toNat / 2 ^ 29 = 0 ∧ (0x1FFFFF00#32).toNat % 256 = 0 :=
  ⟨rfl, rfl, by decide, by decide, by decide, by decide⟩

theorem witness_StepRunsTheDecodedCommand :
    (waiting (.writeReg 0x00#8 0x00003102#32) small).cfg.legal = true ∧
    (waiting (.writeReg 0x00#8 0x00003102#32) small).pending = .writeReg 0x00#8 0x00003102#32 :: [] ∧
    decode 0x00003102#32 = .ok (.crcUpdate 0x31#8) := ⟨rfl, rfl, by decide +kernel⟩

/-- The largest legal parameters, and each constraint just broken. -/
theorem witness_IllegalConfigurationIsRefused :
    answers (step (State.resetOf { Config.small with maxPayload := 254, maxFragments := 1, inSize := 259 })) = true ∧
    answers (step (State.resetOf { Config.small with maxPayload := 1, maxFragments := 254, inSize := 65535 })) = true ∧
    answers (step (State.resetOf { Config.small with maxPayload := 254, maxFragments := 1, inSize := 258 })) = false ∧
    answers (step (State.resetOf { Config.small with maxFragments := 255, inSize := 65535 })) = false := by
  decide +kernel

theorem witness_EveryCommandAndStepCompletes : small.cfg.legal = true ∧ small.pending = [] := ⟨rfl, rfl⟩

/-- Every offset of the register map, and reserved ones. -/
theorem witness_RegisterReadsGiveTheFields (off : BitVec 8) : (waiting (.readReg off) fourFrames).cfg.legal = true ∧
    (waiting (.readReg off) fourFrames).pending = .readReg off :: [] := ⟨rfl, rfl⟩

theorem witness_ParamRegistersReadTheConfiguration : State.reset.cfg = Config.reference ∧
    State.reset.cfg.legal = true ∧ answers (step State.reset) = true := by decide +kernel

theorem witness_ReservedOffsetsReadZeroAndIgnoreWrites : small.cfg.legal = true ∧
    [0x38#8, 0xFF#8].all (fun o => decide (0x38 ≤ o.toNat)) = true ∧
    [0x01#8, 0x37#8].all (fun o => decide (o.toNat % 4 ≠ 0)) = true ∧
    (waiting (.readReg 0x38#8) small).pending = .readReg 0x38#8 :: [] ∧
    (waiting (.writeReg 0x37#8 1#32) small).pending = .writeReg 0x37#8 1#32 :: [] :=
  ⟨rfl, by decide, by decide, rfl, rfl⟩

theorem witness_RegisterWritesTouchOnlyDefinedFields (off : BitVec 8) :
    (waiting (.writeReg off 0xFFFFFFFF#32) small).cfg.legal = true ∧
    (waiting (.writeReg off 0xFFFFFFFF#32) small).pending = .writeReg off 0xFFFFFFFF#32 :: [] ∧
    0x0C ≤ (0x0C#8).toNat ∧ 0x0C ≤ (0xFF#8).toNat := ⟨rfl, rfl, by decide, by decide⟩

/-- The last index below IN_SIZE and the first that is not. -/
theorem witness_HostBufferAccesses (sp : Buffer) (i : Nat) (b : Byte) :
    small.cfg.legal = true ∧ small.inBuf.wf ∧ (waiting (.readBuf sp i) small).pending = .readBuf sp i :: [] ∧
    (waiting (.writeBuf sp i b) small).pending = .writeBuf sp i b :: [] ∧
    bufferSize small.cfg .inBuf ≤ 16 ∧ 15 < bufferSize small.cfg .inBuf ∧ small.cfg.inSize ≤ 16 ∧ 15 < small.cfg.inSize ∧
    Buffer.outBuf ≠ .inBuf := ⟨rfl, by decide, rfl, rfl, by decide, by decide, by decide, by decide, by decide⟩

theorem witness_ReadReturnsTheLastWrite : small.cfg.legal = true ∧ small.inBuf.wf ∧ 15 < small.cfg.inSize ∧
    { small with pending := [.writeBuf .inBuf 15 0x00#8, .readBuf .inBuf 15] }.pending =
      [.writeBuf .inBuf 15 0x00#8, .readBuf .inBuf 15] := ⟨rfl, by decide, by decide, rfl⟩

theorem witness_StepsRunTheHostEventsInOrder : small.cfg.legal = true := rfl

theorem witness_ResetSetsEveryRegister (d : Drawn) : (waiting (.reset d) fourFrames).cfg.legal = true ∧
    (waiting (.reset d) fourFrames).pending = .reset d :: [] ∧
    15 < (List.replicate 16 0xA5#8).length ∧ 15 < small.cfg.inSize := ⟨rfl, rfl, by decide, by decide⟩

theorem witness_InvHoldsAfterEveryReset : fourFrames.cfg.legal = true := rfl

theorem witness_EveryStepKeepsInv : Inv (waiting (.writeReg 0x00#8 0x00002A12#32) fourFrames) ∧
    ∃ t, step (waiting (.writeReg 0x00#8 0x00002A12#32) fourFrames) = .next t :=
  ⟨inv_of_check (by decide +kernel), _, rfl⟩

/-- Every error a command can raise, raised; and a word that selects no command. -/
theorem witness_StatusAfterEveryCommand :
    nextIs (exec .crcBuf { small with len := 17#16 }) (fun t => t.status.err == .invalidArgument) = true ∧
    nextIs (exec (.enc 7#3 false false) { small with len := 16#16 }) (fun t => t.status.err == .unsupportedType) = true ∧
    nextIs (exec (.enc 6#3 false false) { small with len := 13#16 }) (fun t =>
      t.status.err == .fragmentLimitExceeded) = true ∧
    nextIs (exec (.rewriteId 4 0#8) fourFrames) (fun t => t.status.err == .invalidArgument) = true ∧
    nextIs (exec (.rewriteAll 0#8) small) (fun t => t.status.err == .invalidArgument) = true ∧
    nextIs (exec .dec small) (fun t => t.status == { err := .malformedFrame, reason := .truncated }) = true ∧
    nextIs (exec .dec (input [0x0A#8, 0x00#8, 0x02#8, 0x41#8, 0x42#8, 0x6F#8, 0xB9#8] small)) (fun t =>
      t.status.reason == .checksumMismatch) = true ∧
    nextIs (exec .dec (input [0x02#8, 0x00#8, 0x05#8, 0x41#8, 0x42#8, 0x43#8, 0x44#8, 0x45#8, 0xC0#8, 0x58#8] small))
      (fun t => t.status.reason == .oversize) = true ∧
    nextIs (exec .dec (input [0x02#8, 0x00#8, 0x02#8, 0x41#8, 0x42#8, 0x43#8, 0x44#8, 0x94#8, 0xEE#8] small)) (fun t =>
      t.status.reason == .lengthMismatch) = true ∧
    nextIs (exec .dec (input [0x22#8, 0x00#8, 0x02#8, 0x41#8, 0x42#8, 0x20#8, 0x65#8] small)) (fun t =>
      t.status.reason == .invalidFlags) = true ∧
    decode 0x000000FF#32 = .error .reservedOpcode ∧ answers (runCommand 0x000000FF#32 small) = true := by decide +kernel

/-- Every register that some command writes, changed by it. -/
theorem witness_EachRegisterHasOnlyItsWriters :
    nextIs (exec (.crcUpdate 0#8) small) (fun t => t.crcState != small.crcState) = true ∧
    nextIs (exec (.enc 2#3 false false) (input (letters 4) small)) (fun t =>
      t.encResult != small.encResult && t.outBuf != small.outBuf) = true ∧
    nextIs (exec .dec (input frame0 small)) (fun t =>
      t.decHdr != small.decHdr && t.decCrc != small.decCrc && t.decBuf != small.decBuf) = true ∧
    nextIs (exec .reasmAccept (decodedFrom frame0 small)) (fun t =>
      t.reasm != small.reasm && t.accLen != small.accLen && t.reasmBuf != small.reasmBuf) = true := by decide +kernel

/-- Two states that differ in a byte above LEN, and ENC on both. -/
theorem witness_StaleBytesNeverReachAResult :
    let s := input (letters 3) small
    let t := { s with inBuf := s.inBuf.write 3 0x99#8 }
    Inv s ∧ Inv t ∧ s ≠ t ∧ AgreeButStale s t ∧ answers (exec (.enc 2#3 true false) s) = true ∧
      answers (exec (.enc 2#3 true false) t) = true := by
  refine ⟨inv_input 3 (by simp), inv_of_check (by decide +kernel), by decide +kernel, ⟨rfl, by decide +kernel, ?_, ?_, ?_⟩,
    by decide +kernel, by decide +kernel⟩ <;> exact fun i h => absurd h (Nat.not_lt_zero i)

theorem witness_RegisterCommandsFrame : ∀ i ∈ [Instr.nop, .crcClear, .crcUpdate 0x31#8, .crcBuf, .reasmReset],
    ∃ t, exec i fourFrames = .next t := by
  intro i hi
  have h : [Instr.nop, .crcClear, .crcUpdate 0x31#8, .crcBuf, .reasmReset].all (fun i => answers (exec i fourFrames)) =
      true := by decide +kernel
  obtain ⟨t, ht, -⟩ := exists_of_nextIs (List.all_eq_true.mp h i hi)
  exact ⟨t, ht⟩

/-- A word for each clause about the encoding, its unused fields set, and the state NOP's clause asks for. -/
theorem witness_encoding_clauses :
    0x1FFFFF00#32 &&& 0xE00000FF#32 = 0x00000000#32 ∧ 0x1FFFFF01#32 &&& 0xE00000FF#32 = 0x00000001#32 ∧
    0x1FFFFF02#32 &&& 0xE00000FF#32 = 0x00000002#32 ∧ 0x1FFFFF03#32 &&& 0xE00000FF#32 = 0x00000003#32 ∧
    0x1FFFFF12#32 &&& 0xE00000FF#32 = 0x00000012#32 ∧ 0x1FFFFF30#32 &&& 0xE00000FF#32 = 0x00000030#32 ∧
    (waiting (.writeReg 0x00#8 0x1FFFFF00#32) small).cfg.legal = true ∧
    (waiting (.writeReg 0x00#8 0x1FFFFF00#32) small).pending = .writeReg 0x00#8 0x1FFFFF00#32 :: [] :=
  ⟨by decide, by decide, by decide, by decide, by decide, by decide, rfl, rfl⟩

theorem witness_CrcBufChecksumsTheInput : small.cfg.inSize < ({ small with len := 17#16 } : State).len.toNat ∧
    ({ small with len := 16#16 } : State).len.toNat ≤ small.cfg.inSize ∧ small.len = 0#16 := by decide

theorem witness_CrcRegisterHoldsTheAccumulator : small.cfg.crc = CrcParams.ccittFalse ∧
    answers (exec .nop small) = true ∧ answers (writeRegister 0x10#8 0xFFFFFFFF#32 small) = true := by decide +kernel

theorem witness_CrcRawIsAffine : (letters 3).length = (digits.take 3).length := rfl

theorem witness_CrcUpdatesEqualCrcBuf :
    [Instr.crcUpdate 0x31#8, .nop, .crcUpdate 0x32#8].all (fun i =>
      i.wf && decide (i ≠ .crcClear) && decide (i ≠ .crcBuf)) = true ∧
    holdsCheck (input [0x31#8, 0x32#8] small) [0x31#8, 0x32#8] = true ∧
    (input [0x31#8, 0x32#8] small).cfg = small.cfg ∧
    (input [0x31#8, 0x32#8] small).len.toNat ≤ (input [0x31#8, 0x32#8] small).cfg.inSize := by decide +kernel

theorem witness_CrcTellsEverySingleBitApart : 7 < 8 := by decide

/-- LEN one above IN_SIZE; LEN = IN_SIZE with TAG 0 and 7; LEN one above F*M with the tags 1 and 6. -/
theorem witness_EncReportsItsErrorsInOrder : small.cfg.legal = true ∧
    small.cfg.inSize < (17#16).toNat ∧ (16#16).toNat ≤ small.cfg.inSize ∧ (13#16).toNat ≤ small.cfg.inSize ∧
    1#3 ≠ 0#3 ∧ 6#3 ≠ 7#3 ∧ small.cfg.maxFragments * small.cfg.maxPayload < (13#16).toNat := by decide

/-- LEN = M - 1, M and F*M, with the lowest and the highest tag. -/
theorem ready_input : ∀ n ∈ [3, 4, 12], ∀ tag ∈ [1#3, 3#3, 6#3], EncReady (input (letters n) small) tag :=
  fun n hn tag ht => ready_of_check ((by decide +kernel :
    ∀ n ∈ [3, 4, 12], ∀ tag ∈ [1#3, 3#3, 6#3], readyCheck (input (letters n) small) tag = true) n hn tag ht)

theorem small_outBuf_wf : small.outBuf.wf := by decide

theorem witness_EncWritesTheOwedFrames : ∀ n ∈ [3, 4, 12], ∀ tag ∈ [1#3, 3#3, 6#3],
    (input (letters n) small).cfg.legal = true ∧ (input (letters n) small).outBuf.wf ∧
    EncReady (input (letters n) small) tag :=
  fun n hn tag ht => ⟨rfl, small_outBuf_wf, ready_input n hn tag ht⟩

/-- With LEN = M the number K is 1, with LEN = F*M it is 3; below M the first clause applies. -/
theorem witness_EncFrameCountAndOutLen : (∀ n ∈ [3, 4, 12], EncReady (input (letters n) small) 3#3) ∧
    (∀ n ∈ [3, 4, 12], EncReady (input (letters n) small) 6#3) ∧ 3 < small.cfg.maxPayload ∧
    small.cfg.maxPayload ≤ 4 ∧ 4 ≤ 1 * small.cfg.maxPayload ∧ (∀ q, 4 ≤ q * small.cfg.maxPayload → 1 ≤ q) ∧
    12 ≤ 3 * small.cfg.maxPayload ∧ ∀ q, 12 ≤ q * small.cfg.maxPayload → 3 ≤ q := by
  refine ⟨fun n h => ready_input n h _ (by simp), fun n h => ready_input n h _ (by simp), by decide, by decide, by decide,
    fun q h => ?_, by decide, fun q h => ?_⟩ <;> (simp [small, State.resetOf, Config.small] at h; omega)

theorem witness_EncFramesStandBackToBack : (input (letters 12) small).cfg.legal = true ∧
    (input (letters 12) small).outBuf.wf ∧ EncReady (input (letters 12) small) 6#3 :=
  ⟨rfl, by decide, ready_input 12 (by simp) _ (by simp)⟩

theorem witness_EncFrame : (input (letters 13) small).cfg.legal = true ∧
    nextIs (exec (.enc 2#3 true false) (input (letters 12) small)) (fun t => t.status.err == .ok) = true ∧
    nextIs (exec (.enc 2#3 true false) (input (letters 13) small)) (fun t => t.status.err != .ok) = true := by
  decide +kernel

theorem witness_RewriteIdRewritesOneFrame : Inv fourFrames ∧ 3 < fourFrames.encResult.frameCount.toNat ∧
    fourFrames.encResult.frameCount.toNat ≤ 4 := ⟨inv_fourFrames, by decide, by decide⟩

theorem witness_RewriteAllIsRepeatedRewriteId : small.encResult.frameCount = 0#8 ∧
    fourFrames.encResult.frameCount ≠ 0#8 := by decide

theorem witness_RewriteAllRenamesEveryFrame : Inv fourFrames ∧ fourFrames.encResult.frameCount ≠ 0#8 ∧
    3 < fourFrames.encResult.frameCount.toNat ∧ ([] : List Byte).length ≤ fourFrames.cfg.maxPayload ∧
    frameBytes fourFrames.outBuf 3 = wireFrame fourFrames.cfg.crc 0#1 0x1B#7 0x00#8 [] :=
  ⟨inv_fourFrames, by decide, by decide, by decide, by decide +kernel⟩

theorem witness_RewriteWithSameIdChangesNothing : Inv fourFrames ∧ 3 < fourFrames.encResult.frameCount.toNat :=
  ⟨inv_fourFrames, by decide⟩

/-- Frame 1 before and after REWRITE.ID 1, 0x07 and REWRITE.ALL 0x2A, each in another state's IN_BUF. -/
theorem witness_RewrittenFrameDecodesWithTheNewId : Inv fourFrames ∧ 1 < fourFrames.encResult.frameCount.toNat ∧
    HoldsInput (input frame1 small) (frameBytes fourFrames.outBuf 1) ∧ (input frame1 small).decBuf.wf ∧
    3 < (0x04#8).toNat ∧
    nextIs (exec (.rewriteId 1 0x07#8) fourFrames) (fun t =>
      holdsCheck (input [0x1A#8, 0x07#8, 0x04#8, 0x45#8, 0x46#8, 0x47#8, 0x48#8, 0xFF#8, 0x54#8] small)
        (frameBytes t.outBuf 1)) = true ∧
    nextIs (exec (.rewriteAll 0x2A#8) fourFrames) (fun t =>
      holdsCheck (input [0x1A#8, 0x2A#8, 0x04#8, 0x45#8, 0x46#8, 0x47#8, 0x48#8, 0xB4#8, 0x2F#8] small)
        (frameBytes t.outBuf 1)) = true :=
  ⟨inv_fourFrames, by decide, holdsInput_of_check (by decide +kernel), by decide, by decide, by decide +kernel,
    by decide +kernel⟩

theorem witness_RewriteFrame :
    nextIs (exec (.rewriteId 3 0xFF#8) fourFrames) (fun t => t.status.err == .ok && t.outBuf != fourFrames.outBuf) = true ∧
    nextIs (exec (.rewriteId 4 0xFF#8) fourFrames) (fun t => t.status.err != .ok) = true ∧
    nextIs (exec (.rewriteAll 0xFF#8) fourFrames) (fun t => t.status.err == .ok) = true ∧
    nextIs (exec (.rewriteAll 0xFF#8) small) (fun t => t.status.err != .ok) = true := by decide +kernel

/-- Does the raw frame pass the first checks: received checksum = computed checksum? -/
def checksumGood (raw : List Byte) : Bool :=
  let s := input raw small
  let n := s.len.toNat
  decide (n ≤ s.cfg.inSize ∧ 5 ≤ n ∧ (s.inBuf.read (n - 2)).toNat + 256 * (s.inBuf.read (n - 1)).toNat =
    (checksum s.cfg.crc (s.inBuf.load 0 (n - 2))).toNat)

/-- One raw frame for each failing check: LEN one above IN_SIZE, 4 bytes, a bad checksum of 7, a length of M + 1, a length
below the one LEN says, and the flags 0x00, 0x07 and 0x22. -/
theorem witness_DecReportsTheFirstFailingCheck : small.cfg.inSize < (17#16).toNat ∧ (4#16).toNat < 5 ∧
    checksumGood [0x0A#8, 0x00#8, 0x02#8, 0x41#8, 0x42#8, 0x6F#8, 0xB9#8] = false ∧
    (checksumGood [0x02#8, 0x00#8, 0x05#8, 0x41#8, 0x42#8, 0x43#8, 0x44#8, 0x45#8, 0xC0#8, 0x58#8] = true ∧
      small.cfg.maxPayload < 5) ∧
    (checksumGood [0x02#8, 0x00#8, 0x02#8, 0x41#8, 0x42#8, 0x43#8, 0x44#8, 0x94#8, 0xEE#8] = true ∧
      2 ≤ small.cfg.maxPayload ∧ 9 ≠ 2 + 5) ∧
    (checksumGood [0x00#8, 0x00#8, 0x02#8, 0x41#8, 0x42#8, 0x17#8, 0x29#8] = true ∧ (0x00#8).toNat % 8 = 0) ∧
    (checksumGood [0x07#8, 0x00#8, 0x02#8, 0x41#8, 0x42#8, 0xC3#8, 0x4E#8] = true ∧ (0x07#8).toNat % 8 = 7) ∧
    checksumGood [0x22#8, 0x00#8, 0x02#8, 0x41#8, 0x42#8, 0x20#8, 0x65#8] = true ∧ 32 ≤ (0x22#8).toNat % 128 := by
  decide +kernel

/-- The largest payload (M bytes) and the empty one. -/
theorem witness_DecHoldsTheDecodedFrame : checksumGood frame0 = true ∧ checksumGood frame3 = true ∧
    4 ≤ small.cfg.maxPayload ∧ frame0.length = 4 + 5 ∧ frame3.length = 0 + 5 ∧
    (0x1A#8).toNat % 128 < 32 ∧ (0x1A#8).toNat % 8 ≠ 0 ∧ (0x1B#8).toNat % 8 ≠ 7 ∧ small.decBuf.wf := by decide +kernel

theorem witness_DecFrame :
    nextIs (exec .dec (input frame0 small)) (fun t => t.status.err == .ok) = true ∧
    nextIs (exec .dec (input [] small)) (fun t => t.status.err != .ok) = true := by decide +kernel

/-- Two states with the same raw frame and all else different. -/
theorem witness_DecIsAPureFunctionOfItsInput :
    let s := input frame0 small
    let t := { decodedFrom finishLoaded (input frame0 collectingOne) with inBuf := (input frame0 small).inBuf.write 15 1#8 }
    s.cfg = t.cfg ∧ s.len = t.len ∧ (∀ i, i < s.len.toNat → s.inBuf.read i = t.inBuf.read i) ∧ s.decBuf.wf ∧
    t.decBuf.wf ∧ s ≠ t ∧ answers (exec .dec s) = true ∧ answers (exec .dec t) = true := by
  refine ⟨rfl, rfl, ?_, ?_, ?_, ?_, ?_, ?_⟩ <;> decide +kernel

theorem witness_DecAcceptsExactlyTheWireFrames : (input frame0 small).cfg.legal = true ∧
    nextIs (exec .dec (input frame0 small)) (fun t => t.status.err == .ok) = true ∧
    (input frame0 small).len.toNat ≤ (input frame0 small).cfg.inSize ∧
    WireFrameOk (input frame0 small).cfg ((input frame0 small).inBuf.load 0 (input frame0 small).len.toNat) :=
  ⟨rfl, by decide +kernel, by decide, wireFrameOk_of_check (by decide +kernel)⟩

theorem witness_DecRejectsEverySingleBitFlip : (input frame0 small).cfg.crc = CrcParams.ccittFalse ∧
    (input frame0 small).inBuf.wf ∧
    nextIs (exec .dec (input frame0 small)) (fun t => t.status.err == .ok) = true ∧
    8 < (input frame0 small).len.toNat ∧ 7 < 8 := by decide +kernel

/-- LEN = M - 1 and its one frame; LEN = M with its one fragment (0*M < LEN) and its sentinel (LEN <= 1*M). -/
theorem witness_EncodedFramesDecode : (∀ n ∈ [3, 4, 12], Inv (input (letters n) small)) ∧
    (∀ n ∈ [3, 4, 12], EncReady (input (letters n) small) 6#3) ∧
    (input (letters 3) small).len.toNat < small.cfg.maxPayload ∧
    (small.cfg.maxPayload ≤ (input (letters 4) small).len.toNat ∧
      0 * small.cfg.maxPayload < (input (letters 4) small).len.toNat ∧
      (input (letters 4) small).len.toNat ≤ 1 * small.cfg.maxPayload) ∧
    nextIs (exec (.enc 2#3 true false) (input (letters 3) small)) (fun t =>
      holdsCheck (input [0x0A#8, 0x00#8, 0x03#8, 0x41#8, 0x42#8, 0x43#8, 0x5A#8, 0x2A#8] small)
        (frameBytes t.outBuf 0)) = true ∧
    nextIs (exec (.enc 2#3 true false) (input (letters 4) small)) (fun t =>
      decide (1 < t.encResult.frameCount.toNat) && holdsCheck (input frame0 small) (frameBytes t.outBuf 0) &&
        holdsCheck (input frame3 small) (frameBytes t.outBuf 1)) = true ∧
    (input frame0 small).decBuf.wf :=
  ⟨fun n h => inv_input n (by simp at h ⊢; tauto), fun n h => ready_input n h _ (by simp), by decide, by decide,
    by decide +kernel, by decide +kernel, by decide⟩

theorem witness_AcceptFromIdle : ∀ raw ∈ [finishLoaded, dataWhole, dataPartial],
    Inv (decodedFrom raw small) ∧ (decodedFrom raw small).reasm.state = .idle ∧
    (decodedFrom raw small).decHdr.valid = true ∧
    ((decodedFrom raw small).decHdr.flags.toNat % 8 = 3 ↔ raw = finishLoaded) := by
  intro raw h
  refine ⟨inv_decoded raw (by simp [rawFrames] at h ⊢; tauto) small (by simp), rfl, rfl, ?_⟩
  simp only [List.mem_cons, List.not_mem_nil, or_false] at h
  rcases h with rfl | rfl | rfl <;> decide

/-- A frame for each clause: FINISH with and without a payload, another tag, no PARTIAL, and the message's tag with PARTIAL at
FRAG_COUNT = F and below it. -/
theorem witness_AcceptFromCollecting :
    (∀ raw ∈ rawFrames, ∀ s ∈ [collectingOne, collectingAll], Inv (decodedFrom raw s)) ∧
    (∀ raw ∈ rawFrames, ∀ s ∈ [collectingOne, collectingAll], (decodedFrom raw s).reasm.state = .collecting ∧
      (decodedFrom raw s).decHdr.valid = true) ∧
    (decodedFrom finishLoaded small).decHdr.length ≠ 0#8 ∧ (decodedFrom finishEmpty small).decHdr.length = 0#8 ∧
    (decodedFrom stationPartial small).decHdr.flags.toNat % 8 ≠ collectingOne.reasm.firstFlags.toNat % 8 ∧
    (decodedFrom dataWhole small).decHdr.flags.toNat % 8 = collectingOne.reasm.firstFlags.toNat % 8 ∧
    (decodedFrom dataWhole small).decHdr.flags.getLsbD 4 = false ∧
    (decodedFrom dataPartial small).decHdr.flags.getLsbD 4 = true ∧
    collectingAll.reasm.fragCount.toNat = collectingAll.cfg.maxFragments ∧
    collectingOne.reasm.fragCount.toNat < collectingOne.cfg.maxFragments :=
  ⟨fun raw h s hs => inv_decoded raw h s (by simp at hs ⊢; tauto), by decide +kernel, by decide, by decide, by decide,
    by decide, by decide, by decide, by decide, by decide⟩

/-- A message that completed. -/
def completed : State := accumulated .complete .completeSingle 1#8 0x0A#7 (letters 2) small

theorem witness_AcceptIgnoredOrDropped : completed.reasm.state = .complete ∧
    (accumulated .failed .failOverflow 3#8 0x12#7 (letters 12) small).reasm.state = .failed ∧
    small.reasm.state = .idle ∧ small.decHdr.valid = false ∧
    collectingOne.reasm.state = .collecting ∧ collectingOne.decHdr.valid = false := ⟨rfl, rfl, rfl, rfl, rfl, rfl⟩

/-- REASM.ACCEPT is written in Complete; it is neither REASM.RESET nor the reset input. -/
theorem witness_TerminalStatesAreLeftOnlyByReset :
    let s := waiting (.writeReg 0x00#8 0x00000031#32) completed
    (s.reasm.state = .complete ∨ s.reasm.state = .failed) ∧ (∃ t, step s = .next t) ∧
    (∀ w rest, s.pending = .writeReg 0x00#8 w :: rest → decode w ≠ .ok .reasmReset) ∧
    ∀ d rest, s.pending ≠ .reset d :: rest := by
  refine ⟨.inl rfl, ⟨_, rfl⟩, ?_, ?_⟩
  · intro w rest h
    simp only [waiting, List.cons.injEq, HostEvent.writeReg.injEq, true_and] at h
    rw [← h.1]; decide +kernel
  · intro d rest h
    simp [waiting] at h

theorem witness_AcceptIgnoresIdVersionAndAck : answers (exec .reasmAccept (decodedFrom dataPartial collectingOne)) = true ∧
    answers (exec .reasmAccept { decodedFrom dataPartial collectingOne with
      decHdr := { (decodedFrom dataPartial collectingOne).decHdr with
        flags := (decodedFrom dataPartial collectingOne).decHdr.flags ^^^ 0x08#7 } }) = true := by decide +kernel

theorem witness_AcceptFrame :
    nextIs (exec .reasmAccept (decodedFrom dataPartial collectingOne)) (fun t => t.reasm.event == .appended) = true ∧
    nextIs (exec .reasmAccept (decodedFrom dataPartial collectingAll)) (fun t =>
      t.reasm.event == .failOverflow) = true := by decide +kernel

/-- As many bytes as IN_BUF holds, and the last of four frames. -/
theorem witness_LoadInAndCopyOutHoldTheirBytes : small.cfg.legal = true ∧ small.inBuf.wf ∧
    (letters 16).length ≤ small.cfg.inSize ∧ Inv fourFrames ∧ 3 < fourFrames.encResult.frameCount.toNat :=
  ⟨rfl, by decide, by decide, inv_fourFrames, by decide⟩

/-- LEN = M, one fragment, and LEN = F*M, three. -/
theorem witness_FragmentedMessageReassembles : ∀ n ∈ [4, 12], Inv (input (letters n) small) ∧
    EncReady (input (letters n) small) 6#3 ∧ (6#3).toNat ≠ 3 ∧ small.cfg.maxPayload ≤ (input (letters n) small).len.toNat := by
  intro n h
  refine ⟨inv_input n (by simp at h ⊢; tauto), ready_input n (by simp at h ⊢; tauto) _ (by simp), by decide, ?_⟩
  simp only [List.mem_cons, List.not_mem_nil, or_false] at h
  rcases h with rfl | rfl <;> decide

theorem witness_RewrittenMessageReassembles : Inv (input (letters 12) small) ∧
    EncReady (input (letters 12) small) 6#3 ∧ (6#3).toNat ≠ 3 ∧
    small.cfg.maxPayload ≤ (input (letters 12) small).len.toNat ∧
    (∀ i ∈ [Instr.rewriteId 255 0x07#8, .rewriteAll 0x2A#8], i.wf = true ∧
      ((∃ k x, i = .rewriteId k x) ∨ ∃ x, i = .rewriteAll x)) := by
  refine ⟨inv_input 12 (by simp), ready_input 12 (by simp) _ (by simp), by decide, by decide, ?_⟩
  intro i h
  simp only [List.mem_cons, List.not_mem_nil, or_false] at h
  rcases h with rfl | rfl
  · exact ⟨by decide, .inl ⟨_, _, rfl⟩⟩
  · exact ⟨by decide, .inr ⟨_, rfl⟩⟩

/-- The one frame of a FINISH message of LEN = M without a sentinel (§2.2), fed to an accumulator in Idle. -/
theorem witness_FinishTaggedMessageNeverStarts : Inv (input (letters 4) small) ∧
    EncReady (input (letters 4) small) tagFinish ∧ small.reasm.state = .idle ∧
    nextIs (exec (.enc tagFinish false false) (input (letters 4) small)) (fun t =>
      decide (0 < t.encResult.frameCount.toNat) &&
      holdsCheck (input [0x13#8, 0x00#8, 0x04#8, 0x41#8, 0x42#8, 0x43#8, 0x44#8, 0x0B#8, 0xAC#8] small)
        (frameBytes t.outBuf 0)) = true :=
  ⟨inv_input 4 (by simp), ready_input 4 (by simp) _ (by simp [tagFinish]), rfl, by decide +kernel⟩

end Sys2Proof.Tests
end

section
/-! PROOFS. When a step is refused (spec/00_scope.md R6 to R11): every command, every host operation and the reset input
has a next state (spec/44_control.md R113), so that only the configuration can make a step refuse. -/

namespace Sys2Proof.Machine

/-! Every command has a next state. It ends by `finish` or by `raise`, and both answer one. -/

theorem finish_next (s : State) : ∃ t, finish s = .next t := ⟨_, rfl⟩

theorem raise_next (e : ErrCode) (r : FrameReason) (s : State) : ∃ t, raise e r s = .next t := ⟨_, rfl⟩

theorem execCrcBuf_next (s : State) : ∃ t, execCrcBuf s = .next t := by
  unfold execCrcBuf
  split
  · exact finish_next _
  · exact raise_next _ _ _

theorem execEnc_next (tag : BitVec 3) (ack part : Bool) (s : State) : ∃ t, execEnc tag ack part s = .next t := by
  unfold execEnc
  split_ifs
  · exact raise_next _ _ _
  · exact raise_next _ _ _
  · split
    · exact raise_next _ _ _
    · exact finish_next _

theorem execRewriteId_next (k : Nat) (id : Byte) (s : State) : ∃ t, execRewriteId k id s = .next t := by
  unfold execRewriteId
  split
  · exact raise_next _ _ _
  · exact finish_next _

theorem execRewriteAll_next (id : Byte) (s : State) : ∃ t, execRewriteAll id s = .next t := by
  unfold execRewriteAll
  split
  · exact raise_next _ _ _
  · exact finish_next _

theorem execDec_next (s : State) : ∃ t, execDec s = .next t := by
  unfold execDec
  split
  · exact raise_next _ _ _
  · split
    · exact raise_next _ _ _
    · exact finish_next _

/-- Every command answers, whatever the configuration (log entry 16). -/
theorem exec_next (i : Instr) (s : State) : ∃ t, exec i s = .next t := by
  cases i with
  | nop => exact finish_next _
  | crcClear => exact finish_next _
  | crcUpdate data => exact finish_next _
  | crcBuf => exact execCrcBuf_next s
  | enc tag ack part => exact execEnc_next tag ack part s
  | rewriteId k id => exact execRewriteId_next k id s
  | rewriteAll id => exact execRewriteAll_next id s
  | dec => exact execDec_next s
  | reasmReset => exact finish_next _
  | reasmAccept => exact finish_next _

/-! Every event has a next state. -/

theorem runCommand_next (w : Word) (s : State) : ∃ t, runCommand w s = .next t := by
  unfold runCommand
  split
  · exact exec_next _ _
  · exact raise_next _ _ _

theorem writeRegister_next (off : BitVec 8) (v : Word) (s : State) : ∃ t, writeRegister off v s = .next t := by
  unfold writeRegister
  split_ifs
  · exact runCommand_next v s
  · exact ⟨_, rfl⟩
  · exact ⟨_, rfl⟩
  · exact ⟨_, rfl⟩

theorem hostEvent_next (e : HostEvent) (s : State) : ∃ t, hostEvent e s = .next t := by
  cases e with
  | readReg off => exact ⟨_, rfl⟩
  | writeReg off v => exact writeRegister_next off v s
  | readBuf sp i => exact ⟨_, rfl⟩
  | writeBuf sp i b => exact ⟨_, rfl⟩
  | reset d => exact ⟨_, rfl⟩

theorem nextEvent_next (s : State) : ∃ t, nextEvent s = .next t := by
  cases hp : s.pending with
  | nil => exact ⟨s, nextEvent_nil hp⟩
  | cons e rest => rw [nextEvent_cons hp]; exact hostEvent_next e _

/-! A step is refused for its configuration alone. -/

theorem step_next_of_legal {s : State} (h : s.cfg.legal = true) : ∃ t, step s = .next t := by
  rw [step_of_legal h]; exact nextEvent_next s

theorem step_refused_iff (s : State) : step s = .refused .illegalConfiguration ↔ ¬ s.cfg.legal = true := by
  constructor
  · intro hr hl
    obtain ⟨t, ht⟩ := step_next_of_legal hl
    rw [ht] at hr
    cases hr
  · intro hl
    rw [step, if_neg hl]

/-- Settles O7: the numbers are `Config.legal`, constraint by constraint, and a step of a legal configuration has a next
state. -/
theorem illegalConfigurationIsRefused : Obligations.IllegalConfigurationIsRefused := by
  intro s m f n
  rw [step_refused_iff]
  exact not_congr s.cfg.legal_iff.symm

end Sys2Proof.Machine
end

section
/-! PROOFS. The register map (spec/10_state.md R17 to R30): the word at each offset, the number its fields make, its
reserved bits, and what a step with a register access at the front does. -/

namespace Sys2Proof.Machine

/-! What a step does with the event at the front of the list. -/

section
variable {s : State} {rest : List HostEvent} {off : BitVec 8} {v : Word}

theorem step_of_pending {e : HostEvent} (hl : s.cfg.legal = true) (hp : s.pending = e :: rest) :
    step s = hostEvent e (s.setPending rest) := by
  rw [step_of_legal hl, nextEvent_cons hp]

theorem step_writeReg (hl : s.cfg.legal = true) (hp : s.pending = .writeReg off v :: rest) :
    step s = writeRegister off v (s.setPending rest) :=
  step_of_pending hl hp

/-- The host's list of events is in no register. -/
@[simp] theorem regWord_setPending (s : State) (es : List HostEvent) (off : BitVec 8) :
    regWord (s.setPending es) off = regWord s off := by
  simp [regWord]

theorem step_readReg (hl : s.cfg.legal = true) (hp : s.pending = .readReg off :: rest) :
    step s = .next { s with pending := rest, response := .word (regWord s off) } := by
  rw [step_of_pending hl hp, hostEvent, regWord_setPending]
  rfl

end

/-! The word at each offset. -/

section
variable (s : State)

@[simp] theorem regWord_cmd : regWord s 0x00#8 = s.cmdWord := by simp [regWord]
@[simp] theorem regWord_len : regWord s 0x04#8 = s.len.setWidth 32 := by simp [regWord]
@[simp] theorem regWord_cfg : regWord s 0x08#8 = s.cfgVersion.setWidth 32 := by simp [regWord]
@[simp] theorem regWord_status : regWord s 0x0C#8 = statusWord s.status := by simp [regWord]
@[simp] theorem regWord_crc : regWord s 0x10#8 = crcWord s.cfg.crc s.crcState := by simp [regWord]
@[simp] theorem regWord_encResult : regWord s 0x14#8 = encResultWord s.encResult := by simp [regWord]
@[simp] theorem regWord_decHdr : regWord s 0x18#8 = decHdrWord s.decHdr := by simp [regWord]
@[simp] theorem regWord_decCrc : regWord s 0x1C#8 = decCrcWord s.decCrc := by simp [regWord]
@[simp] theorem regWord_reasm : regWord s 0x20#8 = reasmWord s.reasm := by simp [regWord]
@[simp] theorem regWord_accLen : regWord s 0x24#8 = s.accLen.setWidth 32 := by simp [regWord]
@[simp] theorem regWord_param0 : regWord s 0x28#8 = param0 s.cfg := by simp [regWord]
@[simp] theorem regWord_param1 : regWord s 0x2C#8 = param1 s.cfg := by simp [regWord]
@[simp] theorem regWord_param2 : regWord s 0x30#8 = param2 s.cfg := by simp [regWord]
@[simp] theorem regWord_param3 : regWord s 0x34#8 = param3 s.cfg := by simp [regWord]

end

/-- No register stands at a reserved or misaligned offset (spec/10_state.md R30, spec/20_memory.md R43). -/
theorem ne_of_reserved {off r : BitVec 8} (h : 0x38 ≤ off.toNat ∨ off.toNat % 4 ≠ 0) (hr : r.toNat < 0x38)
    (ha : r.toNat % 4 = 0) : off ≠ r := by
  rintro rfl
  omega

theorem regWord_of_reserved {off : BitVec 8} (s : State) (h : 0x38 ≤ off.toNat ∨ off.toNat % 4 ≠ 0) :
    regWord s off = 0#32 := by
  simp [regWord, ne_of_reserved h]

/-! A register write at each offset. -/

section
variable (v : Word) (s : State)

@[simp] theorem writeRegister_cmd : writeRegister 0x00#8 v s = runCommand v s := by simp [writeRegister]

@[simp] theorem writeRegister_len : writeRegister 0x04#8 v s = .next (s.setLen (v.extractLsb' 0 16)) := by
  simp [writeRegister]

@[simp] theorem writeRegister_cfg : writeRegister 0x08#8 v s = .next (s.setCfgVersion (v.extractLsb' 0 1)) := by
  simp [writeRegister]

/-- Every other offset ignores the write (spec/10_state.md R29, R30). -/
theorem writeRegister_of_ne {off : BitVec 8} (h0 : off ≠ 0x00#8) (h4 : off ≠ 0x04#8) (h8 : off ≠ 0x08#8) :
    writeRegister off v s = .next s := by
  simp [writeRegister, h0, h4, h8]

end

theorem runCommand_of_decode {w : Word} {i : Instr} (h : decode w = .ok i) (s : State) :
    runCommand w s = exec i (s.setCmdWord w) := by
  simp [runCommand, h]

/-- The fields a register word is put together from add up at their bit places. -/
theorem toNat_append_eq_add {n m : Nat} (hi : BitVec n) (lo : BitVec m) :
    (hi ++ lo).toNat = lo.toNat + 2 ^ m * hi.toNat := by
  rw [BitVec.toNat_append, ← Nat.shiftLeft_add_eq_or_of_lt lo.isLt, Nat.shiftLeft_eq]
  ring

/-! The number of each register word (spec/10_state.md R17 to R28). -/

theorem toNat_statusWord (r : StatusReg) :
    (statusWord r).toNat = r.err.code.toNat + 2 ^ 4 * r.reason.code.toNat := by
  simp only [statusWord, toNat_append_eq_add, BitVec.toNat_ofNat]
  ring

theorem toNat_crcWord (p : CrcParams) (st : Half) :
    (crcWord p st).toNat = st.toNat + 2 ^ 16 * (crcFinalize p st).toNat := by
  rw [crcWord, toNat_append_eq_add]

theorem toNat_encResultWord (r : EncResultReg) :
    (encResultWord r).toNat = r.frameCount.toNat + 2 ^ 16 * r.outLen.toNat := by
  simp only [encResultWord, toNat_append_eq_add, BitVec.toNat_ofNat]
  ring

theorem toNat_decHdrWord (r : DecHdrReg) :
    (decHdrWord r).toNat = r.flags.toNat + 2 ^ 7 * r.version.toNat + 2 ^ 8 * r.id.toNat +
      2 ^ 16 * r.length.toNat + 2 ^ 24 * r.valid.toNat := by
  simp only [decHdrWord, toNat_append_eq_add, BitVec.toNat_ofBool, BitVec.toNat_ofNat]
  ring

theorem toNat_decCrcWord (r : DecCrcReg) :
    (decCrcWord r).toNat = r.received.toNat + 2 ^ 16 * r.computed.toNat := by
  rw [decCrcWord, toNat_append_eq_add]

theorem toNat_reasmWord (r : ReasmReg) :
    (reasmWord r).toNat = r.state.code.toNat + 2 ^ 4 * r.event.code.toNat + 2 ^ 8 * r.fragCount.toNat +
      2 ^ 16 * r.firstFlags.toNat := by
  simp only [reasmWord, toNat_append_eq_add, BitVec.toNat_ofNat]
  ring

theorem toNat_param0 {c : Config} (h : c.legal = true) :
    (param0 c).toNat = c.maxPayload + 2 ^ 8 * c.maxFragments + 2 ^ 16 * c.inSize := by
  obtain ⟨-, hM, -, hF, -, -, hIn, -⟩ := c.legal_iff.mp h
  simp only [param0, toNat_append_eq_add, BitVec.toNat_ofNat]
  omega

theorem toNat_param1 {c : Config} (h : c.legal = true) :
    (param1 c).toNat = c.outSize + 2 ^ 16 * c.reasmSize := by
  obtain ⟨-, -, -, -, hReasm, -, hIn, hOut⟩ := c.legal_iff.mp h
  have hr : c.reasmSize + 1 ≤ c.inSize := hReasm
  simp only [param1, toNat_append_eq_add, BitVec.toNat_ofNat]
  omega

theorem toNat_param2 (c : Config) : (param2 c).toNat = c.crc.poly.toNat + 2 ^ 16 * c.crc.init.toNat := by
  rw [param2, toNat_append_eq_add]

theorem toNat_param3 (c : Config) :
    (param3 c).toNat = c.crc.refin.toNat + 2 * c.crc.refout.toNat + 2 ^ 16 * c.crc.xorout.toNat := by
  simp only [param3, toNat_append_eq_add, BitVec.toNat_ofBool, BitVec.toNat_ofNat]
  ring

/-! The reserved bits of each register word are 0 (spec/10_state.md R29): the mask is 0 on every field and 1 only where
the word is built from a literal 0. -/

theorem setWidth_and_highHalf (v : Half) : v.setWidth 32 &&& 0xFFFF0000#32 = 0#32 := by
  have hv : v.setWidth 32 = 0#16 ++ v := BitVec.setWidth_eq_append (by decide)
  rw [hv, show 0xFFFF0000#32 = 0xFFFF#16 ++ 0#16 from rfl, BitVec.and_append]
  simp

theorem setWidth_and_allButBit0 (v : Bit) : v.setWidth 32 &&& 0xFFFFFFFE#32 = 0#32 := by
  have hv : v.setWidth 32 = 0#31 ++ v := BitVec.setWidth_eq_append (by decide)
  rw [hv, show 0xFFFFFFFE#32 = 0x7FFFFFFF#31 ++ 0#1 from rfl, BitVec.and_append]
  simp

theorem statusWord_and_reserved (r : StatusReg) : statusWord r &&& 0xFFFFFF00#32 = 0#32 := by
  rw [show 0xFFFFFF00#32 = 0xFFFFFF#24 ++ 0#4 ++ 0#4 from rfl, statusWord, BitVec.and_append, BitVec.and_append]
  simp

theorem encResultWord_and_reserved (r : EncResultReg) : encResultWord r &&& 0x0000FF00#32 = 0#32 := by
  rw [show 0x0000FF00#32 = 0#16 ++ 0xFF#8 ++ 0#8 from rfl, encResultWord, BitVec.and_append, BitVec.and_append]
  simp

theorem decHdrWord_and_reserved (r : DecHdrReg) : decHdrWord r &&& 0xFE000000#32 = 0#32 := by
  rw [show 0xFE000000#32 = 0x7F#7 ++ 0#1 ++ 0#8 ++ 0#8 ++ 0#1 ++ 0#7 from rfl, decHdrWord, BitVec.and_append, BitVec.and_append, BitVec.and_append, BitVec.and_append, BitVec.and_append]
  simp

theorem reasmWord_and_reserved (r : ReasmReg) : reasmWord r &&& 0xFF80000C#32 = 0#32 := by
  rw [show 0xFF80000C#32 = 0x1FF#9 ++ 0#7 ++ 0#8 ++ 0#4 ++ 0x3#2 ++ 0#2 from rfl, reasmWord, BitVec.and_append, BitVec.and_append, BitVec.and_append, BitVec.and_append, BitVec.and_append]
  simp

theorem param3_and_reserved (c : Config) : param3 c &&& 0x0000FFFC#32 = 0#32 := by
  rw [show 0x0000FFFC#32 = 0#16 ++ 0x3FFF#14 ++ 0#1 ++ 0#1 from rfl, param3, BitVec.and_append, BitVec.and_append, BitVec.and_append]
  simp

/-! The obligations on register accesses. -/

/-- Settles O6: a write of CMD runs the decoded command, whatever it is. -/
theorem stepRunsTheDecodedCommand : Obligations.StepRunsTheDecodedCommand := by
  intro s w i rest hl hp hd
  rw [step_writeReg hl hp, writeRegister_cmd, runCommand_of_decode hd]
  rfl

/-- Settles O9, each register by the number of its word. -/
theorem registerReadsGiveTheFields : Obligations.RegisterReadsGiveTheFields := by
  refine ⟨rfl, rfl, rfl, rfl, fun s off rest hl hp => ⟨regWord s off, step_readReg hl hp, rfl, ?_⟩⟩
  refine ⟨?_, ?_, ?_, ?_, ?_, ?_, ?_, ?_, ?_, ?_⟩ <;> rintro rfl
  · rw [regWord_cmd]
  · rw [regWord_len, BitVec.toNat_setWidth_of_le (by decide)]
  · rw [regWord_cfg, BitVec.toNat_setWidth_of_le (by decide)]
  · rw [regWord_status, toNat_statusWord]
  · rw [regWord_crc, toNat_crcWord]
  · rw [regWord_encResult, toNat_encResultWord]
  · rw [regWord_decHdr, toNat_decHdrWord]
  · rw [regWord_decCrc, toNat_decCrcWord]
  · rw [regWord_reasm, toNat_reasmWord]
  · rw [regWord_accLen, BitVec.toNat_setWidth_of_le (by decide)]

/-- Settles O11: no register stands at such an offset. -/
theorem reservedOffsetsReadZeroAndIgnoreWrites : Obligations.ReservedOffsetsReadZeroAndIgnoreWrites := by
  intro s off v rest hl hoff
  constructor <;> intro hp
  · rw [step_readReg hl hp, regWord_of_reserved s hoff]
  · rw [step_writeReg hl hp, writeRegister_of_ne v _ (ne_of_reserved hoff (by decide) (by decide))
      (ne_of_reserved hoff (by decide) (by decide)) (ne_of_reserved hoff (by decide) (by decide))]
    rfl

/-- LEN takes the low half of the written word. -/
theorem extractLsb'_low_half (v : Word) : v.extractLsb' 0 16 = BitVec.ofNat 16 (v.toNat % 2 ^ 16) := by
  apply BitVec.eq_of_toNat_eq
  simp

/-- CFG takes bit 0 of the written word. -/
theorem extractLsb'_low_bit (v : Word) : v.extractLsb' 0 1 = BitVec.ofNat 1 (v.toNat % 2) := by
  apply BitVec.eq_of_toNat_eq
  simp

/-- Settles O12, clause by clause of the register map. -/
theorem registerWritesTouchOnlyDefinedFields : Obligations.RegisterWritesTouchOnlyDefinedFields := by
  constructor
  · intro s off v rest hl hp
    rw [step_writeReg hl hp]
    refine ⟨fun hoff => ?_, ?_, ?_, ?_⟩
    · have hne {r : BitVec 8} (hr : r.toNat < 0x0C) : off ≠ r := by rintro rfl; omega
      rw [writeRegister_of_ne v _ (hne (by decide)) (hne (by decide)) (hne (by decide))]
      rfl
    · rintro rfl
      exact writeRegister_cmd v _
    · rintro rfl
      rw [writeRegister_len, extractLsb'_low_half]
      rfl
    · rintro rfl
      rw [writeRegister_cfg, extractLsb'_low_bit]
      rfl
  · intro s
    simp only [regWord_len, regWord_cfg, regWord_status, regWord_encResult, regWord_decHdr, regWord_reasm,
      regWord_accLen, regWord_param3]
    exact ⟨setWidth_and_highHalf _, setWidth_and_allButBit0 _, statusWord_and_reserved _,
      encResultWord_and_reserved _, decHdrWord_and_reserved _, reasmWord_and_reserved _, setWidth_and_highHalf _,
      param3_and_reserved _⟩

end Sys2Proof.Machine
end

section
/-! PROOFS. Which command writes which register and buffer (spec/10_state.md R18 to R27, R31): one lemma per command says
all that it can write, and the statements on the configuration and on CRC.STATE follow from them. -/

namespace Sys2Proof.Machine

section
variable {s t : State}

/-! What each command can write; every other field is as before. -/

theorem execNop_writes (h : execNop s = .next t) : ∃ st, t = s.setStatus st :=
  ⟨_, (finish_eq_next _ _).mp h⟩

theorem execCrcClear_writes (h : execCrcClear s = .next t) : ∃ v st, t = (s.setCrcState v).setStatus st :=
  ⟨_, _, (finish_eq_next _ _).mp h⟩

theorem execCrcUpdate_writes {b : Byte} (h : execCrcUpdate b s = .next t) :
    ∃ v st, t = (s.setCrcState v).setStatus st :=
  ⟨_, _, (finish_eq_next _ _).mp h⟩

theorem execCrcBuf_writes (h : execCrcBuf s = .next t) : ∃ v st, t = (s.setCrcState v).setStatus st := by
  unfold execCrcBuf at h
  split at h
  · exact ⟨_, _, (finish_eq_next _ _).mp h⟩
  · exact ⟨s.crcState, _, (raise_eq_next _ _ _ _).mp h⟩

theorem execEnc_writes {tag : BitVec 3} {ack part : Bool} (h : execEnc tag ack part s = .next t) :
    ∃ m r st, t = ((s.setOutBuf m).setEncResult r).setStatus st := by
  obtain ⟨-, rfl⟩ | ⟨-, -, rfl⟩ | ⟨-, -, -, rfl⟩ | ⟨-, -, _, _, -, -, rfl⟩ := execEnc_cases h
  · exact ⟨s.outBuf, _, _, rfl⟩
  · exact ⟨s.outBuf, _, _, rfl⟩
  · exact ⟨s.outBuf, _, _, rfl⟩
  · exact ⟨_, _, _, rfl⟩

theorem execRewriteId_writes {k : Nat} {id : Byte} (h : execRewriteId k id s = .next t) :
    ∃ m st, t = (s.setOutBuf m).setStatus st := by
  unfold execRewriteId at h
  split at h
  · exact ⟨s.outBuf, _, (raise_eq_next _ _ _ _).mp h⟩
  · exact ⟨_, _, (finish_eq_next _ _).mp h⟩

theorem execRewriteAll_writes {id : Byte} (h : execRewriteAll id s = .next t) :
    ∃ m st, t = (s.setOutBuf m).setStatus st := by
  unfold execRewriteAll at h
  split at h
  · exact ⟨s.outBuf, _, (raise_eq_next _ _ _ _).mp h⟩
  · exact ⟨_, _, (finish_eq_next _ _).mp h⟩

/-- DEC writes DEC_BUF only when it ends well (spec/42_decoder.md R89, R98). -/
theorem execDec_writes (h : execDec s = .next t) :
    ∃ m r c st, t = (((s.setDecBuf m).setDecHdr r).setDecCrc c).setStatus st ∧ (m ≠ s.decBuf → st.err = .ok) := by
  obtain ⟨-, rfl⟩ | ⟨-, _, -, rfl⟩ | ⟨-, _, -, rfl⟩ := execDec_cases h
  · exact ⟨s.decBuf, _, _, _, rfl, fun hne => absurd rfl hne⟩
  · exact ⟨s.decBuf, _, _, _, rfl, fun hne => absurd rfl hne⟩
  · exact ⟨_, _, _, _, rfl, fun _ => rfl⟩

theorem execReasmReset_writes (h : execReasmReset s = .next t) :
    ∃ r n st, t = ((s.setReasm r).setAccLen n).setStatus st :=
  ⟨_, _, _, (finish_eq_next _ _).mp h⟩

/-- REASM.ACCEPT consumes the decoded frame and writes the accumulation (spec/43_reassembly.md R105). -/
theorem execReasmAccept_writes (h : execReasmAccept s = .next t) :
    ∃ r n m st, t = ((((consumeDecoded s).setReasm r).setAccLen n).setReasmBuf m).setStatus st := by
  rw [execReasmAccept, acceptFrame_frame, finish_eq_next] at h
  exact ⟨_, _, _, _, h⟩

end

/-- Settles O21, command by command from what each can write. -/
theorem eachRegisterHasOnlyItsWriters : Obligations.EachRegisterHasOnlyItsWriters := by
  intro i s t h
  cases i with
  | nop => obtain ⟨st, rfl⟩ := execNop_writes h; simp
  | crcClear => obtain ⟨v, st, rfl⟩ := execCrcClear_writes h; simp
  | crcUpdate b => obtain ⟨v, st, rfl⟩ := execCrcUpdate_writes h; simp
  | crcBuf => obtain ⟨v, st, rfl⟩ := execCrcBuf_writes h; simp
  | enc tag ack part => obtain ⟨m, r, st, rfl⟩ := execEnc_writes h; simp
  | rewriteId k id => obtain ⟨m, st, rfl⟩ := execRewriteId_writes h; simp
  | rewriteAll id => obtain ⟨m, st, rfl⟩ := execRewriteAll_writes h; simp
  | dec => obtain ⟨m, r, c, st, rfl, hbuf⟩ := execDec_writes h; simpa using hbuf
  | reasmReset => obtain ⟨r, n, st, rfl⟩ := execReasmReset_writes h; simp
  | reasmAccept => obtain ⟨r, n, m, st, rfl⟩ := execReasmAccept_writes h; simp

/-! The configuration is kept by every command, event and step. -/

section
variable {s t : State}

theorem exec_keeps_cfg {i : Instr} (h : exec i s = .next t) : t.cfg = s.cfg :=
  (eachRegisterHasOnlyItsWriters i s t h).1

theorem runCommand_keeps_cfg {w : Word} (h : runCommand w s = .next t) : t.cfg = s.cfg := by
  obtain ⟨i, -, hi⟩ | ⟨r, -, rfl⟩ := runCommand_cases h
  · rw [exec_keeps_cfg hi, State.setCmdWord_cfg]
  · rfl

theorem writeRegister_keeps_cfg {off : BitVec 8} {v : Word} (h : writeRegister off v s = .next t) :
    t.cfg = s.cfg := by
  obtain ⟨-, hr⟩ | ⟨-, rfl⟩ | ⟨-, rfl⟩ | ⟨-, -, -, rfl⟩ := writeRegister_cases h
  · exact runCommand_keeps_cfg hr
  · rfl
  · rfl
  · rfl

theorem writeBuffer_keeps_cfg (sp : Buffer) (i : Nat) (b : Byte) (s : State) : (writeBuffer sp i b s).cfg = s.cfg := by
  obtain h | h := writeBuffer_eq sp i b s <;> rw [h]
  rfl

theorem hostEvent_keeps_cfg {e : HostEvent} (h : hostEvent e s = .next t) : t.cfg = s.cfg := by
  obtain ⟨off, -, rfl⟩ | ⟨off, v, -, hw⟩ | ⟨sp, i, -, rfl⟩ | ⟨sp, i, b, -, rfl⟩ | ⟨d, -, rfl⟩ := hostEvent_cases h
  · rfl
  · exact writeRegister_keeps_cfg hw
  · rfl
  · exact writeBuffer_keeps_cfg sp i b s
  · rfl

theorem step_keeps_cfg (h : step s = .next t) : t.cfg = s.cfg := by
  obtain ⟨-, ⟨-, rfl⟩ | ⟨e, rest, -, he⟩⟩ := step_cases h
  · rfl
  · rw [hostEvent_keeps_cfg he, State.setPending_cfg]

end

/-- Settles O10: the four words are functions of the configuration, which no step changes. -/
theorem paramRegistersReadTheConfiguration : Obligations.ParamRegistersReadTheConfiguration := by
  simp only [Obligations.ParamRegistersReadTheConfiguration, regWord_param0, regWord_param1, regWord_param2,
    regWord_param3]
  refine ⟨fun s hl => ?_, fun s hs => ?_, fun s t h => ?_⟩
  · exact ⟨toNat_param0 hl, toNat_param1 hl, toNat_param2 _, toNat_param3 _⟩
  · rw [hs]
    exact ⟨rfl, rfl, rfl, rfl⟩
  · rw [step_keeps_cfg h]
    exact ⟨rfl, rfl, rfl, rfl, rfl⟩

/-! The two halves of the CRC register (spec/10_state.md R22). -/

theorem crcWord_low_half (p : CrcParams) (st : Half) : (crcWord p st).extractLsb' 0 16 = st :=
  BitVec.extractLsb'_append_eq_right

theorem crcWord_high_half (p : CrcParams) (st : Half) : (crcWord p st).extractLsb' 16 16 = crcFinalize p st :=
  BitVec.extractLsb'_append_eq_left

/-- The default parameters reflect nothing and have XOROUT = 0. -/
theorem crcFinalize_ccittFalse (st : Half) : crcFinalize CrcParams.ccittFalse st = st := by
  simp [crcFinalize, CrcParams.ccittFalse]

/-- Settles O28: the register's two halves, and the writers of CRC.STATE from O21. -/
theorem crcRegisterHoldsTheAccumulator : Obligations.CrcRegisterHoldsTheAccumulator := by
  refine ⟨fun s => ?_, fun i s t h hClear hUpdate hBuf => ?_, fun s t v h => ?_, fun s d => applyReset_crcState d s⟩
  · rw [regWord_crc, crcWord_low_half, crcWord_high_half]
    exact ⟨rfl, rfl, fun hp => by rw [hp, crcFinalize_ccittFalse]⟩
  · obtain ⟨-, -, -, -, -, -, -, hWriters, -⟩ := eachRegisterHasOnlyItsWriters i s t h
    by_contra hne
    obtain rfl | ⟨b, rfl⟩ | rfl := hWriters hne
    · exact hClear rfl
    · exact hUpdate b rfl
    · exact hBuf rfl
  · rw [writeRegister_of_ne v s (by decide) (by decide) (by decide)] at h
    exact (Host.Outcome.next.inj h).symm

end Sys2Proof.Machine
end

section
/-! PROOFS. The reset input (spec/10_state.md R32, R36; spec/70_reset_and_hazards.md R135): the registers it sets, the
bytes it draws, and the invariant that holds after it. -/

namespace Sys2Proof.Machine

section
variable (d : Drawn) (s : State)

@[simp] theorem applyReset_cmdWord : (applyReset d s).cmdWord = 0#32 := rfl
@[simp] theorem applyReset_len : (applyReset d s).len = 0#16 := rfl
@[simp] theorem applyReset_cfgVersion : (applyReset d s).cfgVersion = 0#1 := rfl

end

/-- A drawn byte is read back below the buffer's size. -/
theorem Memory.read_ofDrawn {size i : Nat} {drawn : List Byte} (h : i < drawn.length) (hs : i < size) :
    (Memory.ofDrawn size drawn).read i = drawn[i] := by
  have := Memory.read_storeBytes_inside drawn [] 0 i h Memory.wf_nil (by omega : 0 + i < size)
  rwa [Nat.zero_add] at this

/-- Settles O16, field by field of the reset state. -/
theorem resetSetsEveryRegister : Obligations.ResetSetsEveryRegister := by
  intro s d rest hl hp
  exact ⟨applyReset d (s.setPending rest), step_of_pending hl hp, applyReset_cmdWord d _, applyReset_len d _,
    applyReset_cfgVersion d _, applyReset_status d _, applyReset_crcState d _, applyReset_encResult d _,
    applyReset_decHdr d _, applyReset_decCrc d _, applyReset_reasm d _, applyReset_accLen d _, applyReset_cfg d _,
    fun _ => Memory.read_ofDrawn, fun _ => Memory.read_ofDrawn, fun _ => Memory.read_ofDrawn,
    fun _ => Memory.read_ofDrawn⟩

/-- Settles O17: fourteen closed words. -/
theorem readsRightAfterReset : Obligations.ReadsRightAfterReset := by
  unfold Obligations.ReadsRightAfterReset
  decide

/-! The parts of the invariant after a reset, whatever was drawn. -/

section
variable (d : Drawn) (s : State)

theorem memoryOk_applyReset : MemoryOk (applyReset d s) where
  inWf := Memory.wf_ofDrawn _ _
  inWithin := Memory.within_ofDrawn _ _
  outWf := Memory.wf_ofDrawn _ _
  outWithin := Memory.within_ofDrawn _ _
  decWf := Memory.wf_ofDrawn _ _
  decWithin := Memory.within_ofDrawn _ _
  reasmWf := Memory.wf_ofDrawn _ _
  reasmWithin := Memory.within_ofDrawn _ _

theorem statusOk_applyReset : StatusOk (applyReset d s) :=
  .of_none (applyReset_status d s) (by decide) (by decide)

/-- OUT_BUF holds no frame. -/
theorem framesOk_applyReset : FramesOk (applyReset d s) := by
  constructor <;> simp [EncResultReg.zero, frameOffset]

theorem decodedOk_applyReset : DecodedOk (applyReset d s) :=
  .inl ⟨applyReset_decHdr d s, applyReset_decCrc d s⟩

/-- The accumulator is Idle, with no fragment and no byte. -/
theorem reasmOk_applyReset : ReasmOk (applyReset d s) := by
  constructor <;> simp [ReasmReg.zero]

theorem inv_applyReset (hl : s.cfg.legal = true) : Inv (applyReset d s) where
  legal := hl
  memory := memoryOk_applyReset d s
  status := statusOk_applyReset d s
  frames := framesOk_applyReset d s
  decoded := decodedOk_applyReset d s
  reasm := reasmOk_applyReset d s

end

/-- State.reset is a reset that draws no byte. -/
theorem applyReset_reset : applyReset ⟨[], [], [], []⟩ State.reset = State.reset := rfl

/-- Settles O18: `State.reset` is one of the reset states. -/
theorem invHoldsAfterEveryReset : Obligations.InvHoldsAfterEveryReset := by
  constructor
  · rw [← applyReset_reset]
    exact inv_applyReset _ _ (by decide)
  · exact fun s d => inv_applyReset d s

end Sys2Proof.Machine
end

section
/-! PROOFS. Every step keeps the invariant (spec/20_memory.md R38, spec/41_encoder.md R79 and R84, spec/42_decoder.md R89,
spec/43_reassembly.md R103, spec/60_exceptions.md R120): first the state updates and what of `Inv` each can touch, then the
frames of OUT_BUF, the decoded frame and the accumulator, then the commands, the events and the step. -/

namespace Sys2Proof.Machine

/-! The fields that no part of the invariant looks at. -/

/-- A state with those fields blanked: what `Inv` speaks of is the rest. -/
def State.inspected (s : State) : State :=
  { s with cmdWord := 0#32, len := 0#16, cfgVersion := 0#1, crcState := 0#16, pending := [], response := .none }

theorem Inv.of_inspected {s t : State} (h : Inv s) (he : t.inspected = s.inspected) : Inv t := by
  have field {α : Type} (f : State → α) : f t.inspected = f s.inspected := congrArg f he
  have hcfg : t.cfg = s.cfg := field State.cfg
  have hout : t.outBuf = s.outBuf := field State.outBuf
  have hdec : t.decBuf = s.decBuf := field State.decBuf
  exact {
    legal := hcfg ▸ h.legal
    memory := h.memory.of_eq hcfg (field State.inBuf) hout hdec (field State.reasmBuf)
    status := h.status.of_eq (field State.status)
    frames := h.frames.of_eq hcfg (field State.encResult) hout
    decoded := h.decoded.of_eq hcfg (field State.decHdr) (field State.decCrc) hdec
    reasm := h.reasm.of_eq hcfg (field State.reasm) (field State.accLen) }

/-! The updates of the fields that it does look at, each with the parts of the invariant it can break. -/

section
variable {s t : State} {m : Memory}

theorem Inv.setInBuf (h : Inv s) (hw : m.wf) (hin : m.within s.cfg.inSize) : Inv (s.setInBuf m) where
  legal := h.legal
  memory := { h.memory with inWf := hw, inWithin := hin }
  status := h.status.of_eq rfl
  frames := h.frames.of_eq rfl rfl rfl
  decoded := h.decoded.of_eq rfl rfl rfl rfl
  reasm := h.reasm.of_eq rfl rfl rfl

theorem Inv.setStatus {r : StatusReg} (h : Inv s) (hr : StatusOk (s.setStatus r)) : Inv (s.setStatus r) where
  legal := h.legal
  memory := h.memory.of_eq rfl rfl rfl rfl rfl
  status := hr
  frames := h.frames.of_eq rfl rfl rfl
  decoded := h.decoded.of_eq rfl rfl rfl rfl
  reasm := h.reasm.of_eq rfl rfl rfl

theorem Inv.setFrames {r : EncResultReg} (h : Inv s) (hw : m.wf) (hin : m.within s.cfg.outSize)
    (hf : FramesOk ((s.setOutBuf m).setEncResult r)) : Inv ((s.setOutBuf m).setEncResult r) where
  legal := h.legal
  memory := { h.memory with outWf := hw, outWithin := hin }
  status := h.status.of_eq rfl
  frames := hf
  decoded := h.decoded.of_eq rfl rfl rfl rfl
  reasm := h.reasm.of_eq rfl rfl rfl

theorem Inv.setDecoded {r : DecHdrReg} {c : DecCrcReg} (h : Inv s) (hw : m.wf) (hin : m.within s.cfg.decSize)
    (hd : DecodedOk (((s.setDecBuf m).setDecHdr r).setDecCrc c)) :
    Inv (((s.setDecBuf m).setDecHdr r).setDecCrc c) where
  legal := h.legal
  memory := { h.memory with decWf := hw, decWithin := hin }
  status := h.status.of_eq rfl
  frames := h.frames.of_eq rfl rfl rfl
  decoded := hd
  reasm := h.reasm.of_eq rfl rfl rfl

theorem Inv.setAccumulated {r : ReasmReg} {n : Half} (h : Inv s) (hw : m.wf) (hin : m.within s.cfg.reasmSize)
    (hr : ReasmOk (((s.setReasm r).setAccLen n).setReasmBuf m)) :
    Inv (((s.setReasm r).setAccLen n).setReasmBuf m) where
  legal := h.legal
  memory := { h.memory with reasmWf := hw, reasmWithin := hin }
  status := h.status.of_eq rfl
  frames := h.frames.of_eq rfl rfl rfl
  decoded := h.decoded.of_eq rfl rfl rfl rfl
  reasm := hr

theorem Inv.setReasm {r : ReasmReg} (h : Inv s) (hr : ReasmOk (s.setReasm r)) : Inv (s.setReasm r) :=
  h.setAccumulated (r := r) (n := s.accLen) h.memory.reasmWf h.memory.reasmWithin (hr.of_eq rfl rfl rfl)

end

/-! How a command ends. -/

section
variable {s t : State}

/-- Success, and every error but MalformedFrame, has REASON 0 (spec/10_state.md R21). -/
theorem Inv.setStatus_none {e : ErrCode} (h : Inv s) (h3 : e ≠ .outOfMemory) (h5 : e ≠ .malformedFrame) :
    Inv (s.setStatus ⟨e, .none⟩) :=
  h.setStatus (.of_none rfl h3 h5)

theorem Inv.of_finish (h : Inv s) (hf : finish s = .next t) : Inv t := by
  obtain rfl := (finish_eq_next s t).mp hf
  exact h.setStatus_none (by decide) (by decide)

theorem Inv.of_raise {e : ErrCode} (h : Inv s) (h3 : e ≠ .outOfMemory) (h5 : e ≠ .malformedFrame)
    (hr : raise e .none s = .next t) : Inv t := by
  obtain rfl := (raise_eq_next e .none s t).mp hr
  exact h.setStatus_none h3 h5

/-- MalformedFrame comes with one of the five reasons of DEC, none of them InvalidVersion (spec/42_decoder.md R97). -/
theorem statusOk_malformed {c : Config} {n : Nat} {m : Memory} {r : FrameReason} (h : decodeFrame c n m = .error r) :
    StatusOk (s.setStatus ⟨.malformedFrame, r⟩) := by
  obtain rfl | rfl | rfl | rfl | rfl := decodeFrame_error h <;> constructor <;> simp

end

/-! OUT_BUF after a successful ENC: good frames stored back to back (spec/41_encoder.md R79). -/

section
variable {c : Config} {s : State}

theorem WireFrameOk.selfSized {bs : List Byte} (h : WireFrameOk c bs) (hl : c.legal = true) : SelfSized bs := by
  obtain ⟨-, hM, -⟩ := c.legal_iff.mp hl
  obtain ⟨v, f, id, pl, hpl, -, rfl⟩ := h
  exact selfSized_wireFrame c.crc v f id pl (by omega)

theorem framesOk_stored {fs : List (List Byte)} (hl : s.cfg.legal = true) (hw : s.outBuf.wf)
    (hf : ∀ f ∈ fs, WireFrameOk s.cfg f) (hcount : fs.length ≤ s.cfg.maxFragments + 1)
    (hsize : fs.flatten.length ≤ s.cfg.outSize) :
    FramesOk ((s.setOutBuf (Memory.storeBytes s.cfg.outSize s.outBuf 0 fs.flatten)).setEncResult
      ⟨BitVec.ofNat 8 fs.length, BitVec.ofNat 16 fs.flatten.length⟩) := by
  obtain ⟨-, -, -, hF, -, -, -, hOut⟩ := s.cfg.legal_iff.mp hl
  have hself : ∀ f ∈ fs, SelfSized f := fun f hm => (hf f hm).selfSized hl
  have hn : (BitVec.ofNat 8 fs.length).toNat = fs.length := by simp; omega
  have hlen : (BitVec.ofNat 16 fs.flatten.length).toNat = fs.flatten.length :=
    Nat.mod_eq_of_lt (by omega)
  constructor <;> simp only [State.setEncResult_encResult, State.setEncResult_cfg, State.setOutBuf_cfg,
    State.setEncResult_outBuf, State.setOutBuf_outBuf, hn, hlen]
  · exact hcount
  · exact hsize
  · rw [frameOffset_stored hw fs hself hsize _ le_rfl, List.take_length]
  · intro k hk
    rw [frameBytes_stored hw fs hself hsize k hk]
    exact hf _ (List.getElem_mem hk)

/-- No frame stands in OUT_BUF after an ENC that failed. -/
theorem framesOk_zero {m : Memory} : FramesOk ((s.setOutBuf m).setEncResult .zero) := by
  constructor <;> simp [EncResultReg.zero, frameOffset]

/-- Below M bytes the splitter makes one chunk, and otherwise ceil(L/M), which it limits to F (spec/41_encoder.md R81). -/
theorem length_split_le {len : Nat} {base : FrameFlags} {chunks : List Chunk} (hF : 1 ≤ c.maxFragments)
    (h : split c len base = some chunks) : chunks.length ≤ c.maxFragments := by
  unfold split at h
  split_ifs at h with h1 h2
  · obtain rfl := Option.some.inj h
    exact hF
  · obtain rfl := Option.some.inj h
    simpa using h2

theorem length_sentinel_le (c : Config) (len : Nat) (base : FrameFlags) : (sentinel c len base).length ≤ 1 := by
  unfold sentinel
  split_ifs <;> simp

theorem length_flatMap_chunkFrame_le {chunks : List Chunk} {n : Nat} (h : ∀ ch ∈ chunks, ch.size ≤ n) :
    (chunks.flatMap (chunkFrame s)).length ≤ chunks.length * (n + 5) := by
  rw [List.length_flatMap, ← List.length_map (f := fun ch => (chunkFrame s ch).length), ← smul_eq_mul]
  refine List.sum_le_card_nsmul _ _ fun x hx => ?_
  obtain ⟨ch, hch, rfl⟩ := List.mem_map.mp hx
  rw [length_chunkFrame, Nat.add_comm]
  exact Nat.add_le_add_right (h ch hch) 5

theorem wireFrameOk_chunkFrame {ch : Chunk} (hsize : ch.size ≤ s.cfg.maxPayload) (hf : flagsValid ch.flags = true) :
    WireFrameOk s.cfg (chunkFrame s ch) :=
  ⟨s.cfgVersion, ch.flags, 0x00#8, s.inBuf.load ch.start ch.size, by rwa [Memory.length_load], hf, rfl⟩

theorem flagsValid_of_split {len : Nat} {base : FrameFlags} {chunks : List Chunk} {ch : Chunk}
    (hb : flagsValid base = true) (h : split c len base = some chunks) (hc : ch ∈ chunks) :
    flagsValid ch.flags = true := by
  obtain ⟨-, hf | hf, -⟩ := split_chunk h hc
  · rwa [hf]
  · rwa [hf, flagsValid_withPartial]

section
variable {base : FrameFlags} {chunks : List Chunk}

theorem wireFrameOk_encoded (hb : flagsValid base = true) (hs : split s.cfg (inputLen s) base = some chunks)
    {ch : Chunk} (hch : ch ∈ chunks ++ sentinel s.cfg (inputLen s) base) : WireFrameOk s.cfg (chunkFrame s ch) := by
  obtain hch | hch := List.mem_append.mp hch
  · exact wireFrameOk_chunkFrame (split_chunk hs hch).1 (flagsValid_of_split hb hs hch)
  · obtain ⟨hsize, -, hf⟩ := sentinel_chunk hch
    exact wireFrameOk_chunkFrame (by omega) (by rw [hf, flagsValid_sentinelFlags])

/-- OUT_SIZE is made for F frames of M payload bytes and the empty one of the sentinel (spec/41_encoder.md R84). -/
theorem length_encoded_le (hF : 1 ≤ s.cfg.maxFragments) (hs : split s.cfg (inputLen s) base = some chunks) :
    ((chunks ++ sentinel s.cfg (inputLen s) base).flatMap (chunkFrame s)).length ≤ s.cfg.outSize := by
  have hfrag := length_flatMap_chunkFrame_le (s := s) fun ch hch => (split_chunk hs hch).1
  have hsent := length_flatMap_chunkFrame_le (s := s) (chunks := sentinel s.cfg (inputLen s) base)
    fun ch hch => (sentinel_chunk hch).1.le
  have hsent1 := length_sentinel_le s.cfg (inputLen s) base
  have hmul := Nat.mul_le_mul_right (s.cfg.maxPayload + 5) (length_split_le hF hs)
  rw [List.flatMap_append, List.length_append, Config.outSize]
  omega

theorem framesOk_encoded (h : Inv s) (hb : flagsValid base = true)
    (hs : split s.cfg (inputLen s) base = some chunks) {frames : List Chunk}
    (hfr : frames = chunks ++ sentinel s.cfg (inputLen s) base) :
    FramesOk ((s.setOutBuf (Memory.storeBytes s.cfg.outSize s.outBuf 0 (frames.flatMap (chunkFrame s)))).setEncResult
      ⟨BitVec.ofNat 8 frames.length, BitVec.ofNat 16 (frames.flatMap (chunkFrame s)).length⟩) := by
  obtain ⟨-, -, hF, -⟩ := s.cfg.legal_iff.mp h.legal
  have hsize := length_encoded_le hF hs
  rw [← hfr, List.flatMap_def] at hsize
  have hgood : ∀ f ∈ frames.map (chunkFrame s), WireFrameOk s.cfg f := by
    intro f hf
    obtain ⟨ch, hch, rfl⟩ := List.mem_map.mp hf
    exact wireFrameOk_encoded hb hs (hfr ▸ hch)
  have hcount : (frames.map (chunkFrame s)).length ≤ s.cfg.maxFragments + 1 := by
    rw [List.length_map, hfr, List.length_append]
    exact Nat.add_le_add (length_split_le hF hs) (length_sentinel_le _ _ _)
  have := framesOk_stored h.legal h.memory.outWf hgood hcount hsize
  rwa [List.length_map, ← List.flatMap_def] at this

end

/-! OUT_BUF after a rewrite: the frames stand where they stood, each good (spec/41_encoder.md R85, R86). -/

theorem frameOffset_le_outSize {k : Nat} (h : FramesOk s) (hk : k ≤ s.encResult.frameCount.toNat) :
    frameOffset s.outBuf k ≤ s.cfg.outSize := by
  have hmono := frameOffset_mono s.outBuf hk
  have hend := h.endsAtOutLen
  have hle := h.outLenLe
  omega

theorem wireFrameOk_rewriteFrame {m : Memory} {id : Byte} {k : Nat} (hw : m.wf)
    (hs : frameOffset m (k + 1) ≤ c.outSize) (h : WireFrameOk c (frameBytes m k)) :
    WireFrameOk c (frameBytes (rewriteFrame c id m k) k) := by
  obtain ⟨v, f, old, pl, hpl, hf, hb⟩ := h
  exact ⟨v, f, id, pl, hpl, hf, frameBytes_rewriteFrame_self hw hs hb⟩

theorem framesOk_rewriteFrame {id : Byte} {k : Nat} (hw : s.outBuf.wf) (h : FramesOk s)
    (hk : k < s.encResult.frameCount.toNat) : FramesOk (s.setOutBuf (rewriteFrame s.cfg id s.outBuf k)) where
  countLe := h.countLe
  outLenLe := h.outLenLe
  endsAtOutLen := (frameOffset_rewriteFrame _).trans h.endsAtOutLen
  frames j hj := by
    rw [State.setOutBuf_outBuf, State.setOutBuf_cfg]
    by_cases hjk : j = k
    · subst hjk
      exact wireFrameOk_rewriteFrame hw (frameOffset_le_outSize h hk) (h.frames j hj)
    · rw [frameBytes_rewriteFrame_ne hjk]
      exact h.frames j hj

theorem Inv.setOutBuf_rewriteFrame {id : Byte} {k : Nat} (h : Inv s) (hk : k < s.encResult.frameCount.toNat) :
    Inv (s.setOutBuf (rewriteFrame s.cfg id s.outBuf k)) :=
  h.setFrames (r := s.encResult) (wf_rewriteFrame h.memory.outWf) (within_rewriteFrame h.memory.outWithin)
    (framesOk_rewriteFrame h.memory.outWf h.frames hk)

theorem Inv.setOutBuf_rewriteFrames {id : Byte} (ks : List Nat) (s : State) (h : Inv s)
    (hks : ∀ k ∈ ks, k < s.encResult.frameCount.toNat) :
    Inv (s.setOutBuf (ks.foldl (rewriteFrame s.cfg id) s.outBuf)) := by
  induction ks generalizing s with
  | nil => exact h
  | cons k ks ih => exact ih _ (h.setOutBuf_rewriteFrame (hks k (by simp))) fun j hj => hks j (by simp [hj])

end

/-! The decoded frame (spec/42_decoder.md R89, R98). -/

section
variable {s : State}

theorem Inv.clearDecoded (h : Inv s) : Inv (clearDecoded s) :=
  h.setDecoded h.memory.decWf h.memory.decWithin (.inl ⟨rfl, rfl⟩)

/-- The decoded payload fits DEC_BUF, so that it is read back from there. -/
theorem decodedOk_holdFrame {n : Nat} {m : Memory} {fr : Frame} (hw : s.decBuf.wf)
    (hfr : decodeFrame s.cfg n m = .ok fr) : DecodedOk (holdFrame fr s) := by
  obtain ⟨-, hlen, hflags, -, -, -, hpl, hrx, -, hcc⟩ := decodeFrame_ok hfr
  have hn : fr.payload.length = fr.length.toNat := by rw [hpl, Memory.length_load]
  have hback : Memory.load (Memory.storeBytes s.cfg.decSize s.decBuf 0 fr.payload) 0 fr.length.toNat = fr.payload := by
    rw [← hn]
    exact Memory.load_storeBytes_self hw (by rw [hn, Nat.zero_add]; exact hlen)
  refine .inr ⟨hflags, hlen, hrx, ?_⟩
  simpa [hback] using hcc

theorem Inv.holdFrame {n : Nat} {m : Memory} {fr : Frame} (h : Inv s) (hfr : decodeFrame s.cfg n m = .ok fr) :
    Inv (holdFrame fr s) :=
  h.setDecoded (Memory.wf_storeBytes _ _ _ h.memory.decWf) (Memory.within_storeBytes _ _ _ h.memory.decWithin)
    (decodedOk_holdFrame h.memory.decWf hfr)

/-- DEC_HDR = 0 has VALID = 0, so clearing VALID leaves it 0; and nothing else asks for VALID. -/
theorem DecodedOk.consumeDecoded (h : DecodedOk s) : DecodedOk (consumeDecoded s) := by
  obtain ⟨hhdr, hcrc⟩ | hframe := h
  · exact .inl ⟨by rw [consumeDecoded_decHdr, hhdr]; rfl, hcrc⟩
  · exact .inr hframe

theorem Inv.consumeDecoded (h : Inv s) : Inv (consumeDecoded s) :=
  h.setDecoded h.memory.decWf h.memory.decWithin h.decoded.consumeDecoded

theorem DecodedOk.of_valid (h : DecodedOk s) (hv : s.decHdr.valid = true) :
    flagsValid s.decHdr.flags = true ∧ s.decHdr.length.toNat ≤ s.cfg.maxPayload := by
  obtain ⟨hhdr, -⟩ | ⟨hflags, hlen, -⟩ := h
  · rw [hhdr] at hv
    cases hv
  · exact ⟨hflags, hlen⟩

end

/-! The accumulator, transition by transition (spec/43_reassembly.md R105 to R109). -/

section
variable {s : State} {m : Memory}

/-- An event that leaves the state and the accumulation as they are. -/
theorem reasmOk_setEvent {e : ReasmEvent} (h : ReasmOk s)
    (hi : s.reasm.state = .idle → e = .dropped ∨ e = .strayFinish)
    (hc : s.reasm.state = .collecting → e = .dropped)
    (ht : s.reasm.state = .complete ∨ s.reasm.state = .failed → e = .ignoredTerminal) : ReasmOk (setEvent s e) where
  fragCountLe := h.fragCountLe
  accLenLe := h.accLenLe
  idle hs := by
    obtain ⟨hcount, hflags, -⟩ := h.idle hs
    exact ⟨hcount, hflags, .inr (hi hs)⟩
  started := h.started
  collecting hs := ⟨(h.collecting hs).1, .inr (.inr (hc hs))⟩
  complete hs := .inr (.inr (ht (.inl hs)))
  failed hs := .inr (.inr (.inr (ht (.inr hs))))

/-- A message in progress ends, well or not, with what it has accumulated. -/
theorem reasmOk_setOutcome {st : ReasmState} {e : ReasmEvent} (h : ReasmOk s) (hs : s.reasm.state = .collecting)
    (ho : st = .failed ∧ (e = .failProtocol ∨ e = .failTagMismatch ∨ e = .failOverflow) ∨
      st = .complete ∧ e = .completeFin) : ReasmOk (setOutcome s st e) := by
  have hstarted := h.started (by rw [hs]; decide)
  obtain ⟨rfl, he⟩ | ⟨rfl, rfl⟩ := ho
  · exact {
      fragCountLe := h.fragCountLe
      accLenLe := h.accLenLe
      idle := nofun
      started := fun _ => hstarted
      collecting := nofun
      complete := nofun
      failed := fun _ => by obtain rfl | rfl | rfl := he <;> simp [setOutcome] }
  · exact {
      fragCountLe := h.fragCountLe
      accLenLe := h.accLenLe
      idle := nofun
      started := fun _ => hstarted
      collecting := nofun
      complete := fun _ => .inr (.inl rfl)
      failed := nofun }

/-- The first frame of a message: one fragment, at most M bytes; with PARTIAL the message is in progress, without it
complete. -/
theorem reasmOk_first {f : FrameFlags} {len : Byte} (hF : 1 ≤ s.cfg.maxFragments)
    (hlen : len.toNat ≤ s.cfg.maxPayload) (hf : flagsValid f = true) (ht : flagsTag f ≠ tagFinish) :
    ReasmOk (((s.setReasm
      { state := if flagsPartial f then .collecting else .complete
        event := if flagsPartial f then .started else .completeSingle
        fragCount := 1#8, firstFlags := f }).setAccLen (len.setWidth 16)).setReasmBuf m) := by
  have hacc : (len.setWidth 16).toNat = len.toNat := BitVec.toNat_setWidth_of_le (by decide)
  by_cases hp : flagsPartial f = true <;> constructor <;> simp [hp, hf, ht, hF, hlen, hacc]

/-- One more fragment: F <= 254 and F*M <= 65535, so neither sum wraps (spec/43_reassembly.md R103). -/
theorem reasmOk_append {len : Byte} (h : ReasmOk s) (hl : s.cfg.legal = true) (hs : s.reasm.state = .collecting)
    (hlen : len.toNat ≤ s.cfg.maxPayload) (hcount : s.reasm.fragCount.toNat ≠ s.cfg.maxFragments) :
    ReasmOk (((s.setReasm { s.reasm with event := .appended, fragCount := s.reasm.fragCount + 1#8 }).setAccLen
      (s.accLen + len.setWidth 16)).setReasmBuf m) := by
  obtain ⟨-, -, -, hF, hFM, -, hIn, -⟩ := s.cfg.legal_iff.mp hl
  obtain ⟨-, hvalid, htag⟩ := h.started (by rw [hs]; decide)
  have hle := h.fragCountLe
  have hfrag : (s.reasm.fragCount + 1#8).toNat = s.reasm.fragCount.toNat + 1 :=
    BitVec.toNat_add_of_lt (by change s.reasm.fragCount.toNat + 1 < 256; omega)
  have hbound : s.accLen.toNat + len.toNat ≤ (s.reasm.fragCount.toNat + 1) * s.cfg.maxPayload := by
    rw [Nat.succ_mul]
    exact Nat.add_le_add h.accLenLe hlen
  have hmul : (s.reasm.fragCount.toNat + 1) * s.cfg.maxPayload ≤ s.cfg.maxFragments * s.cfg.maxPayload :=
    Nat.mul_le_mul_right _ (by omega)
  have hacc : (s.accLen + len.setWidth 16).toNat = s.accLen.toNat + len.toNat := by
    have hw : (len.setWidth 16).toNat = len.toNat := BitVec.toNat_setWidth_of_le (by decide)
    rw [BitVec.toNat_add_of_lt (by omega), hw]
  exact {
    fragCountLe := hfrag.trans_le (by rw [State.setReasmBuf_cfg, State.setAccLen_cfg, State.setReasm_cfg]; omega)
    accLenLe := hacc.trans_le (hbound.trans_eq (congrArg (· * s.cfg.maxPayload) hfrag.symm))
    idle := fun hi => absurd (hs.symm.trans hi) (by decide)
    started := fun _ =>
      ⟨fun h0 => absurd (hfrag.symm.trans (congrArg BitVec.toNat h0)) (Nat.succ_ne_zero _), hvalid, htag⟩
    collecting := fun _ => ⟨(h.collecting hs).1, .inr (.inl rfl)⟩
    complete := fun hc => absurd (hs.symm.trans hc) (by decide)
    failed := fun hf => absurd (hs.symm.trans hf) (by decide) }

theorem reasmOk_zero : ReasmOk (((s.setReasm .zero).setAccLen 0#16).setReasmBuf m) := by
  constructor <;> simp [ReasmReg.zero]

/-- Every transition keeps the invariant, if a frame that counts as valid has the flags and the length of one that passed
the checks of DEC. -/
theorem Inv.acceptFrame {v : Bool} (h : Inv s)
    (hv : v = true → flagsValid s.decHdr.flags = true ∧ s.decHdr.length.toNat ≤ s.cfg.maxPayload) :
    Inv (acceptFrame v s) := by
  have hwf {i : Nat} {bs : List Byte} := Memory.wf_storeBytes (size := s.cfg.reasmSize) bs s.reasmBuf i h.memory.reasmWf
  have hwithin {i : Nat} {bs : List Byte} := Memory.within_storeBytes bs s.reasmBuf i h.memory.reasmWithin
  obtain ⟨hs, he⟩ | ⟨hs, -, he⟩ | ⟨hs, -, -, he⟩ | ⟨hs, hv1, ht, he⟩ | ⟨hs, -, st, e, ho, he⟩ |
    ⟨hs, hv1, -, -, hn, he⟩ := acceptFrame_cases v s <;> rw [he]
  · exact h.setReasm
      (reasmOk_setEvent h.reasm (fun hi => by simp [hi] at hs) (fun hc => by simp [hc] at hs) fun _ => rfl)
  · exact h.setReasm
      (reasmOk_setEvent h.reasm (fun _ => .inl rfl) (fun _ => rfl) (by obtain hs | hs := hs <;> simp [hs]))
  · exact h.setReasm (reasmOk_setEvent h.reasm (fun _ => .inr rfl) (by simp [hs]) (by simp [hs]))
  · obtain ⟨-, -, hF, -⟩ := s.cfg.legal_iff.mp h.legal
    obtain ⟨hflags, hlen⟩ := hv hv1
    exact h.setAccumulated hwf hwithin (reasmOk_first hF hlen hflags ht)
  · exact h.setReasm (reasmOk_setOutcome h.reasm hs (ho.imp_right fun ⟨hst, he, _⟩ => ⟨hst, he⟩))
  · exact h.setAccumulated hwf hwithin (reasmOk_append h.reasm h.legal hs (hv hv1).2 hn)

end

/-! Every command. -/

section
variable {s t : State}

theorem Inv.setCrcState (h : Inv s) (v : Half) : Inv (s.setCrcState v) := h.of_inspected rfl

theorem execCrcBuf_keeps_inv (h : Inv s) (he : execCrcBuf s = .next t) : Inv t := by
  unfold execCrcBuf at he
  split at he
  · exact (h.setCrcState _).of_finish he
  · exact h.of_raise (by decide) (by decide) he

theorem execEnc_keeps_inv {tag : BitVec 3} {ack part : Bool} (h : Inv s) (he : execEnc tag ack part s = .next t) :
    Inv t := by
  have hzero : Inv (s.setEncResult .zero) := h.setFrames h.memory.outWf h.memory.outWithin framesOk_zero
  obtain ⟨-, rfl⟩ | ⟨-, -, rfl⟩ | ⟨-, -, -, rfl⟩ | ⟨-, htag, chunks, frames, hs, hfr, rfl⟩ := execEnc_cases he
  · exact hzero.setStatus_none (by decide) (by decide)
  · exact hzero.setStatus_none (by decide) (by decide)
  · exact hzero.setStatus_none (by decide) (by decide)
  · have hframes := framesOk_encoded h (flagsValid_baseFlags htag ack part) hs hfr
    exact (h.setFrames (Memory.wf_storeBytes _ _ _ h.memory.outWf) (Memory.within_storeBytes _ _ _ h.memory.outWithin)
      hframes).setStatus_none (by decide) (by decide)

theorem execRewriteId_keeps_inv {k : Nat} {id : Byte} (h : Inv s) (he : execRewriteId k id s = .next t) : Inv t := by
  unfold execRewriteId at he
  split at he
  case isTrue => exact h.of_raise (by decide) (by decide) he
  case isFalse hk => exact (h.setOutBuf_rewriteFrame (Nat.lt_of_not_ge hk)).of_finish he

theorem execRewriteAll_keeps_inv {id : Byte} (h : Inv s) (he : execRewriteAll id s = .next t) : Inv t := by
  unfold execRewriteAll at he
  split at he
  · exact h.of_raise (by decide) (by decide) he
  · exact (h.setOutBuf_rewriteFrames _ _ fun k hk => List.mem_range.mp hk).of_finish he

theorem execDec_keeps_inv (h : Inv s) (he : execDec s = .next t) : Inv t := by
  obtain ⟨-, rfl⟩ | ⟨-, r, hr, rfl⟩ | ⟨-, fr, hfr, rfl⟩ := execDec_cases he
  · exact h.clearDecoded.setStatus_none (by decide) (by decide)
  · exact h.clearDecoded.setStatus (statusOk_malformed hr)
  · exact (h.clearDecoded.holdFrame hfr).setStatus_none (by decide) (by decide)

/-- A frame with VALID set is one that passed the checks of DEC; REASM.ACCEPT clears VALID first. -/
theorem execReasmAccept_keeps_inv (h : Inv s) (he : execReasmAccept s = .next t) : Inv t :=
  (h.consumeDecoded.acceptFrame h.decoded.of_valid).of_finish he

theorem exec_keeps_inv {i : Instr} (h : Inv s) (he : exec i s = .next t) : Inv t := by
  cases i with
  | nop => exact h.of_finish he
  | crcClear => exact (h.setCrcState _).of_finish he
  | crcUpdate b => exact (h.setCrcState _).of_finish he
  | crcBuf => exact execCrcBuf_keeps_inv h he
  | enc tag ack part => exact execEnc_keeps_inv h he
  | rewriteId k id => exact execRewriteId_keeps_inv h he
  | rewriteAll id => exact execRewriteAll_keeps_inv h he
  | dec => exact execDec_keeps_inv h he
  | reasmReset => exact (h.setAccumulated h.memory.reasmWf h.memory.reasmWithin reasmOk_zero).of_finish he
  | reasmAccept => exact execReasmAccept_keeps_inv h he

/-! Every event and every step. -/

theorem runCommand_keeps_inv {w : Word} (h : Inv s) (he : runCommand w s = .next t) : Inv t := by
  have hcmd : Inv (s.setCmdWord w) := h.of_inspected rfl
  obtain ⟨i, -, hi⟩ | ⟨r, -, rfl⟩ := runCommand_cases he
  · exact exec_keeps_inv hcmd hi
  · exact hcmd.setStatus_none (by decide) (by decide)

theorem writeRegister_keeps_inv {off : BitVec 8} {v : Word} (h : Inv s) (he : writeRegister off v s = .next t) :
    Inv t := by
  obtain ⟨-, hr⟩ | ⟨-, rfl⟩ | ⟨-, rfl⟩ | ⟨-, -, -, rfl⟩ := writeRegister_cases he
  · exact runCommand_keeps_inv h hr
  · exact h.of_inspected rfl
  · exact h.of_inspected rfl
  · exact h

theorem writeBuffer_keeps_inv (sp : Buffer) (i : Nat) (b : Byte) (h : Inv s) : Inv (writeBuffer sp i b s) := by
  obtain he | he := writeBuffer_eq sp i b s <;> rw [he]
  · exact h
  · exact h.setInBuf (Memory.wf_store h.memory.inWf) (Memory.within_store h.memory.inWithin)

theorem hostEvent_keeps_inv {e : HostEvent} (h : Inv s) (he : hostEvent e s = .next t) : Inv t := by
  obtain ⟨off, -, rfl⟩ | ⟨off, v, -, hw⟩ | ⟨sp, i, -, rfl⟩ | ⟨sp, i, b, -, rfl⟩ | ⟨d, -, rfl⟩ := hostEvent_cases he
  · exact h.of_inspected rfl
  · exact writeRegister_keeps_inv h hw
  · exact h.of_inspected rfl
  · exact writeBuffer_keeps_inv sp i b h
  · exact inv_applyReset d s h.legal

end

/-- Settles O19: the event at the front of the list keeps the invariant, and taking it off the list does too. -/
theorem everyStepKeepsInv : Obligations.EveryStepKeepsInv := by
  intro s t h hstep
  obtain ⟨-, ⟨-, rfl⟩ | ⟨e, rest, -, he⟩⟩ := step_cases hstep
  · exact h
  · have hrest : Inv (s.setPending rest) := h.of_inspected rfl
    exact hostEvent_keeps_inv hrest he

end Sys2Proof.Machine
end

section
/-! PROOFS. The host's accesses (spec/20_memory.md R38, R47; spec/44_control.md R113): the four buffers, a read right after
a write, and the order of the events. -/

namespace Sys2Proof.Machine

/-! What a step does with a buffer access at the front of the list. -/

section
variable {s : State} {rest : List HostEvent} {sp : Buffer} {i : Nat} {b : Byte}

/-- The host's list of events is in no buffer. -/
@[simp] theorem bufferByte_setPending (s : State) (es : List HostEvent) (sp : Buffer) (i : Nat) :
    bufferByte (s.setPending es) sp i = bufferByte s sp i := by
  cases sp <;> rfl

theorem step_readBuf (hl : s.cfg.legal = true) (hp : s.pending = .readBuf sp i :: rest) :
    step s = .next { s with pending := rest, response := .byte (bufferByte s sp i) } := by
  rw [step_of_pending hl hp, hostEvent, bufferByte_setPending]
  rfl

theorem step_writeBuf (hl : s.cfg.legal = true) (hp : s.pending = .writeBuf sp i b :: rest) :
    step s = .next (writeBuffer sp i b (s.setPending rest)) :=
  step_of_pending hl hp

/-- Only IN_BUF is written by the host. -/
theorem writeBuffer_of_ne (hsp : sp ≠ .inBuf) : writeBuffer sp i b s = s := by
  cases sp with
  | inBuf => exact absurd rfl hsp
  | outBuf => rfl
  | decBuf => rfl
  | reasmBuf => rfl

theorem bufferByte_of_le (h : bufferSize s.cfg sp ≤ i) : bufferByte s sp i = 0x00#8 := if_neg (by omega)

theorem bufferByte_of_lt (h : i < bufferSize s.cfg sp) : bufferByte s sp i = (bufferOf s sp).read i := if_pos h

end

theorem Memory.store_of_le {size i : Nat} {m : Memory} {b : Byte} (h : size ≤ i) : m.store size i b = m :=
  if_neg (by omega)

/-- Settles O13: a buffer read is `bufferByte`, a write of IN_BUF is one bounded store, and no other write does anything. -/
theorem hostBufferAccesses : Obligations.HostBufferAccesses := by
  intro s i b rest hl hw
  refine ⟨fun sp hp => ?_, fun hp => ?_, fun sp hsp hp => ?_⟩
  · exact ⟨bufferByte s sp i, step_readBuf hl hp, bufferByte_of_le, bufferByte_of_lt⟩
  · exact ⟨_, step_writeBuf hl hp, rfl, Memory.store_of_le, Memory.read_store_self hw,
      fun a ha => Memory.read_store_ne ha.symm⟩
  · rw [step_writeBuf hl hp, writeBuffer_of_ne hsp]
    rfl

/-! Runs of the machine. -/

theorem run_of_step {s t : State} (h : step s = .next t) (k : Nat) :
    Host.Core.run core (k + 1) s = Host.Core.run core k t := by
  have hc : core.step s = .next t := h
  simp [Host.Core.run, hc]

theorem run_two_of_steps {s t u : State} (hst : step s = .next t) (htu : step t = .next u) :
    Host.Core.run core 2 s = .next u := by
  rw [run_of_step hst, run_of_step htu]
  rfl

/-! A read right after a write (spec/20_memory.md R47). -/

/-- LEN gives the written word back without its reserved bits (spec/10_state.md R19, R29). -/
theorem setWidth_extractLsb'_low_half (v : Word) : (v.extractLsb' 0 16).setWidth 32 = v &&& 0x0000FFFF#32 := by
  apply BitVec.eq_of_toNat_eq
  rw [BitVec.toNat_and, show (0x0000FFFF#32).toNat = 2 ^ 16 - 1 from rfl, Nat.and_two_pow_sub_one_eq_mod,
    BitVec.toNat_setWidth_of_le (by decide), BitVec.extractLsb'_toNat, Nat.shiftRight_zero]

/-- No command writes CMD or the host's side (spec/10_state.md R18), so CMD holds the written word, whatever it did. -/
theorem runCommand_keeps_cmdWord_pending {w : Word} {s t : State} (h : runCommand w s = .next t) :
    t.cmdWord = w ∧ t.pending = s.pending := by
  obtain ⟨i, -, hi⟩ | ⟨r, -, rfl⟩ := runCommand_cases h
  · obtain ⟨-, hcmd, -, -, -, hpend, -⟩ := eachRegisterHasOnlyItsWriters i _ t hi
    exact ⟨hcmd, hpend⟩
  · exact ⟨rfl, rfl⟩

/-- Settles O14: the write's step leaves the read at the front of the list, and the value where the read finds it. -/
theorem readReturnsTheLastWrite : Obligations.ReadReturnsTheLastWrite := by
  intro s rest hl
  refine ⟨fun i b hw hi hp => ?_, fun v hp => ?_, fun w hp => ?_⟩
  · refine ⟨_, run_two_of_steps (step_writeBuf hl hp) (step_readBuf hl rfl), ?_, rfl⟩
    rw [bufferByte_of_lt hi]
    exact congrArg Response.byte (Memory.read_store_self hw hi)
  · have hwrite : step s = .next ((s.setPending (.readReg 0x04#8 :: rest)).setLen (v.extractLsb' 0 16)) := by
      rw [step_writeReg hl hp, writeRegister_len]
    refine ⟨_, run_two_of_steps hwrite (step_readReg hl rfl), ?_, rfl⟩
    rw [regWord_len, State.setLen_len, setWidth_extractLsb'_low_half]
  · obtain ⟨t, ht⟩ := runCommand_next w (s.setPending (.readReg 0x00#8 :: rest))
    obtain ⟨hcmd, hpend⟩ := runCommand_keeps_cmdWord_pending ht
    have hwrite : step s = .next t := by rw [step_writeReg hl hp, writeRegister_cmd, ht]
    have hlt : t.cfg.legal = true := by rw [runCommand_keeps_cfg ht]; exact hl
    refine ⟨_, run_two_of_steps hwrite (step_readReg hlt hpend), ?_, rfl⟩
    rw [regWord_cmd, hcmd]

/-! No event depends on the events after it: a change of the list goes through every command. -/

/-- The state that an outcome answers, with another list of events to come. -/
def withPending (es : List HostEvent) : Result → Result
  | .next s => .next (s.setPending es)
  | .fault r => .fault r
  | .refused r => .refused r

section
variable (es : List HostEvent) (s : State)

@[simp] theorem inputLen_setPending : inputLen (s.setPending es) = inputLen s := rfl

theorem execCrcBuf_setPending : execCrcBuf (s.setPending es) = withPending es (execCrcBuf s) := by
  unfold execCrcBuf
  rw [apply_ite (withPending es)]
  rfl

theorem execEnc_setPending (tag : BitVec 3) (ack part : Bool) :
    execEnc tag ack part (s.setPending es) = withPending es (execEnc tag ack part s) := by
  unfold execEnc
  rw [apply_ite (withPending es), apply_ite (withPending es)]
  refine ite_congr rfl (fun _ => rfl) fun _ => ite_congr rfl (fun _ => rfl) fun _ => ?_
  rw [inputLen_setPending, State.setPending_cfg]
  cases split s.cfg (inputLen s) (baseFlags tag ack part) <;> rfl

theorem execRewriteId_setPending (k : Nat) (id : Byte) :
    execRewriteId k id (s.setPending es) = withPending es (execRewriteId k id s) := by
  unfold execRewriteId
  rw [apply_ite (withPending es)]
  rfl

theorem execRewriteAll_setPending (id : Byte) :
    execRewriteAll id (s.setPending es) = withPending es (execRewriteAll id s) := by
  unfold execRewriteAll
  rw [apply_ite (withPending es)]
  rfl

theorem execDec_setPending : execDec (s.setPending es) = withPending es (execDec s) := by
  unfold execDec
  rw [apply_ite (withPending es)]
  refine ite_congr rfl (fun _ => rfl) fun _ => ?_
  rw [inputLen_setPending, State.setPending_cfg, State.setPending_inBuf]
  cases decodeFrame s.cfg (inputLen s) s.inBuf <;> rfl

theorem acceptIdle_setPending : acceptIdle (s.setPending es) = (acceptIdle s).setPending es := by
  simp only [acceptIdle, apply_ite (State.setPending · es)]
  rfl

theorem acceptCollecting_setPending : acceptCollecting (s.setPending es) = (acceptCollecting s).setPending es := by
  simp only [acceptCollecting, apply_ite (State.setPending · es)]
  rfl

theorem acceptFrame_setPending (v : Bool) : acceptFrame v (s.setPending es) = (acceptFrame v s).setPending es := by
  unfold acceptFrame
  rw [State.setPending_reasm, acceptIdle_setPending, acceptCollecting_setPending]
  split
  · rfl
  · rfl
  · rw [apply_ite (State.setPending · es)]
    rfl
  · rw [apply_ite (State.setPending · es)]
    rfl

theorem exec_setPending (i : Instr) : exec i (s.setPending es) = withPending es (exec i s) := by
  cases i with
  | nop => rfl
  | crcClear => rfl
  | crcUpdate b => rfl
  | crcBuf => exact execCrcBuf_setPending es s
  | enc tag ack part => exact execEnc_setPending es s tag ack part
  | rewriteId k id => exact execRewriteId_setPending es s k id
  | rewriteAll id => exact execRewriteAll_setPending es s id
  | dec => exact execDec_setPending es s
  | reasmReset => rfl
  | reasmAccept => exact congrArg finish (acceptFrame_setPending es (consumeDecoded s) s.decHdr.valid)

theorem runCommand_setPending (w : Word) : runCommand w (s.setPending es) = withPending es (runCommand w s) := by
  unfold runCommand
  cases decode w with
  | ok i => exact exec_setPending es (s.setCmdWord w) i
  | error r => rfl

theorem writeRegister_setPending (off : BitVec 8) (v : Word) :
    writeRegister off v (s.setPending es) = withPending es (writeRegister off v s) := by
  unfold writeRegister
  rw [runCommand_setPending]
  split_ifs <;> rfl

theorem hostEvent_setPending (e : HostEvent) : hostEvent e (s.setPending es) = withPending es (hostEvent e s) := by
  cases e with
  | readReg off => rw [hostEvent, regWord_setPending]; rfl
  | writeReg off v => exact writeRegister_setPending es s off v
  | readBuf sp i => rw [hostEvent, bufferByte_setPending]; rfl
  | writeBuf sp i b => cases sp <;> rfl
  | reset d => rfl

end

theorem runEvents_cons_of_next {e : HostEvent} {s t : State} (h : hostEvent e s = .next t) (es : List HostEvent) :
    runEvents (e :: es) s = runEvents es t := by
  simp [runEvents, h]

/-- An event leaves the events after it in the list. -/
theorem hostEvent_setPending_self {e : HostEvent} {s t : State} (h : hostEvent e s = .next t) :
    t.setPending s.pending = t := by
  have hsame := hostEvent_setPending s.pending s e
  rw [h] at hsame
  exact (Host.Outcome.next.inj (h.symm.trans hsame)).symm

/-- The step that takes the first event off a list does what the event does with another list behind it. -/
theorem step_setPending_cons {e : HostEvent} {s t : State} (hl : s.cfg.legal = true) (h : hostEvent e s = .next t)
    (es : List HostEvent) : step (s.setPending (e :: es)) = .next (t.setPending es) := by
  rw [step_of_pending (s := s.setPending (e :: es)) hl rfl]
  exact (hostEvent_setPending es s e).trans (congrArg (withPending es) h)

/-- Settles O15, by induction on the events: the first step runs the first event, which does not see the events after
it. -/
theorem stepsRunTheHostEventsInOrder : Obligations.StepsRunTheHostEventsInOrder := by
  intro es rest s hl
  change Host.Core.run core es.length (s.setPending (es ++ rest)) = runEvents es (s.setPending rest)
  induction es generalizing s with
  | nil => rfl
  | cons e es ih =>
    obtain ⟨t, ht⟩ := hostEvent_next e (s.setPending rest)
    have hlt : t.cfg.legal = true := by rw [hostEvent_keeps_cfg ht]; exact hl
    have hstep := step_setPending_cons (s := s.setPending rest) hl ht (es ++ rest)
    have htail := ih t hlt
    rw [show t.setPending rest = t from hostEvent_setPending_self ht, ← runEvents_cons_of_next ht] at htail
    exact (run_of_step hstep es.length).trans htail

end Sys2Proof.Machine
end

section
/-! PROOFS. The decoder and the encoder (spec/30_encoding.md R52 to R57, R68): a word decodes to a command exactly when its
RSV is 0, its OP is the command's and the fields that the command uses hold its operands. What the masks select, what the
rows of the opcode map match and which words are reserved follow from that. -/

namespace Sys2Proof

/-! What a command's word holds. -/

/-- OP of a command's word (spec/30_encoding.md R56). -/
def Instr.opcode : Instr → Byte
  | .nop => 0x00#8
  | .crcClear => 0x01#8
  | .crcUpdate _ => 0x02#8
  | .crcBuf => 0x03#8
  | .enc _ _ _ => 0x10#8
  | .rewriteId _ _ => 0x11#8
  | .rewriteAll _ => 0x12#8
  | .dec => 0x20#8
  | .reasmReset => 0x30#8
  | .reasmAccept => 0x31#8

/-- The fields of `w` that the command uses hold its operands (the "used by" column of spec/30_encoding.md R52). -/
def Instr.OperandsIn (w : Word) : Instr → Prop
  | .nop => True
  | .crcClear => True
  | .crcUpdate data => imm8Field w = data
  | .crcBuf => True
  | .enc tag ack part => tagField w = tag ∧ ackField w = ack ∧ partField w = part
  | .rewriteId idx id => imm8Field w = id ∧ (idxField w).toNat = idx
  | .rewriteAll id => imm8Field w = id
  | .dec => True
  | .reasmReset => True
  | .reasmAccept => True

/-- A frame index that a field holds is a byte; no other operand can be out of range (spec/30_encoding.md R53). -/
theorem Instr.OperandsIn.wf {w : Word} {i : Instr} (h : i.OperandsIn w) : i.wf = true := by
  cases i with
  | rewriteId idx id =>
    obtain ⟨-, rfl⟩ := h
    exact decide_eq_true (idxField_lt w)
  | _ => rfl

theorem opField_encode (i : Instr) : opField (encode i) = i.opcode := by
  cases i <;> exact opField_commandWord ..

theorem rsvField_encode (i : Instr) : rsvField (encode i) = 0#3 := by
  cases i <;> exact rsvField_commandWord ..

theorem operandsIn_encode {i : Instr} (h : i.wf = true) : i.OperandsIn (encode i) := by
  cases i with
  | crcUpdate data => exact imm8Field_commandWord ..
  | enc tag ack part =>
    exact ⟨tagField_commandWord .., ackField_commandWord .., partField_commandWord ..⟩
  | rewriteId idx id =>
    refine ⟨imm8Field_commandWord .., ?_⟩
    rw [encode, idxField_commandWord]
    exact Nat.mod_eq_of_lt (of_decide_eq_true h)
  | rewriteAll id => exact imm8Field_commandWord ..
  | _ => trivial

/-- Every word holds operands for every row of the opcode map. -/
theorem exists_operandsIn (w : Word) (i : Instr) : ∃ j : Instr, j.opcode = i.opcode ∧ j.OperandsIn w := by
  cases i with
  | nop => exact ⟨.nop, rfl, trivial⟩
  | crcClear => exact ⟨.crcClear, rfl, trivial⟩
  | crcUpdate _ => exact ⟨.crcUpdate (imm8Field w), rfl, rfl⟩
  | crcBuf => exact ⟨.crcBuf, rfl, trivial⟩
  | enc _ _ _ => exact ⟨.enc (tagField w) (ackField w) (partField w), rfl, rfl, rfl, rfl⟩
  | rewriteId _ _ => exact ⟨.rewriteId (idxField w).toNat (imm8Field w), rfl, rfl, rfl⟩
  | rewriteAll _ => exact ⟨.rewriteAll (imm8Field w), rfl, rfl⟩
  | dec => exact ⟨.dec, rfl, trivial⟩
  | reasmReset => exact ⟨.reasmReset, rfl, trivial⟩
  | reasmAccept => exact ⟨.reasmAccept, rfl, trivial⟩

/-! When a word decodes to a command. -/

theorem decodeOp_opcode {w : Word} {i : Instr} (h : i.OperandsIn w) : decodeOp i.opcode w = .ok i := by
  cases i with
  | crcUpdate data => obtain rfl := h; rfl
  | enc tag ack part => obtain ⟨rfl, rfl, rfl⟩ := h; rfl
  | rewriteId idx id => obtain ⟨rfl, rfl⟩ := h; rfl
  | rewriteAll id => obtain rfl := h; rfl
  | _ => rfl

theorem opcode_operandsIn_of_decodeOp {op : Byte} {w : Word} {i : Instr} (h : decodeOp op w = .ok i) :
    op = i.opcode ∧ i.OperandsIn w := by
  unfold decodeOp at h
  split_ifs at h with hop <;>
  · obtain rfl := Except.ok.inj h
    simp [*, Instr.opcode, Instr.OperandsIn]

/-- What the decoder looks at, and nothing else (spec/30_encoding.md R54). -/
theorem decode_eq_ok_iff {w : Word} {i : Instr} :
    decode w = .ok i ↔ rsvField w = 0#3 ∧ opField w = i.opcode ∧ i.OperandsIn w := by
  constructor
  · intro h
    by_cases hrsv : rsvField w = 0#3
    · rw [decode_of_rsv_zero hrsv] at h
      exact ⟨hrsv, opcode_operandsIn_of_decodeOp h⟩
    · simp [decode, hrsv] at h
  · rintro ⟨hrsv, hop, hopd⟩
    rw [decode_of_rsv_zero hrsv, hop, decodeOp_opcode hopd]

/-- The decoder is total: a word that is no command is refused (spec/30_encoding.md R54). -/
theorem decode_error_of_forall_ne {w : Word} (h : ∀ i, decode w ≠ .ok i) : ∃ r, decode w = .error r := by
  cases hd : decode w with
  | ok i => exact absurd hd (h i)
  | error r => exact ⟨r, rfl⟩

/-- Settles O1: the encoder puts into the word what the decoder looks for. -/
theorem decodeOfEncodeIsTheCommand : Obligations.DecodeOfEncodeIsTheCommand :=
  fun i hwf => decode_eq_ok_iff.mpr ⟨rsvField_encode i, opField_encode i, operandsIn_encode hwf⟩

/-! Which fields a mask keeps. -/

/-- A word is its fields, highest first (spec/30_encoding.md R52). -/
theorem append_fields (w : Word) :
    rsvField w ++ BitVec.ofBool (partField w) ++ BitVec.ofBool (ackField w) ++ tagField w ++ idxField w ++
      imm8Field w ++ opField w = w := by
  unfold rsvField partField ackField tagField idxField imm8Field opField
  ext i hi
  simp only [BitVec.getElem_append, BitVec.getElem_extractLsb']
  grind

theorem eq_commandWord_iff {w : Word} {part ack : Bool} {tag : BitVec 3} {idx imm8 op : Byte} :
    w = commandWord part ack tag idx imm8 op ↔ rsvField w = 0#3 ∧ opField w = op ∧ imm8Field w = imm8 ∧
      idxField w = idx ∧ tagField w = tag ∧ ackField w = ack ∧ partField w = part := by
  constructor
  · rintro rfl
    simp
  · rintro ⟨hrsv, rfl, rfl, rfl, rfl, rfl, rfl⟩
    conv_lhs => rw [← append_fields w, hrsv]
    rfl

/-- A masked word is compared with a command word field by field. -/
theorem and_eq_commandWord_iff {w mask : Word} {part ack : Bool} {tag : BitVec 3} {idx imm8 op : Byte} :
    w &&& mask = commandWord part ack tag idx imm8 op ↔ rsvField w &&& rsvField mask = 0#3 ∧
      opField w &&& opField mask = op ∧ imm8Field w &&& imm8Field mask = imm8 ∧
      idxField w &&& idxField mask = idx ∧ tagField w &&& tagField mask = tag ∧
      (ackField w && ackField mask) = ack ∧ (partField w && partField mask) = part := by
  simp only [eq_commandWord_iff, rsvField, opField, imm8Field, idxField, tagField, ackField, partField,
    BitVec.extractLsb'_and, BitVec.getLsbD_and]

@[simp] theorem byte_and_0xFF (b : Byte) : b &&& 0xFF#8 = b := BitVec.and_allOnes

@[simp] theorem code_and_7 (c : BitVec 3) : c &&& 7#3 = c := BitVec.and_allOnes

/-- In RSV, in OP and in the fields that `i` uses its mask is all ones; in the others it is 0, as `i`'s word is. -/
theorem wf_and_usedMask_iff (w : Word) (i : Instr) : i.wf = true ∧ w &&& usedMask i = encode i ↔
    rsvField w = 0#3 ∧ opField w = i.opcode ∧ i.OperandsIn w := by
  cases i with
  | rewriteId idx id =>
    simp only [Instr.wf, Instr.OperandsIn, BitVec.toNat_eq_nat, usedMask, encode, and_eq_commandWord_iff]
    simp [Instr.opcode, rsvField, opField, imm8Field, idxField, tagField, ackField, partField]
    tauto
  | _ =>
    simp only [usedMask, encode, and_eq_commandWord_iff]
    simp [Instr.wf, Instr.opcode, Instr.OperandsIn, rsvField, opField, imm8Field, idxField, tagField, ackField,
      partField]

/-- Settles O2: both sides say that RSV is 0, OP is the command's and the used fields hold its operands. -/
theorem decodeReadsExactlyTheUsedBits : Obligations.DecodeReadsExactlyTheUsedBits :=
  fun w i => decode_eq_ok_iff.trans (wf_and_usedMask_iff w i).symm

/-! The rows of the opcode map (spec/30_encoding.md R55). -/

theorem rowMatch_eq_commandWord (i : Instr) : rowMatch i = commandWord false false 0#3 0#8 0#8 i.opcode := by
  cases i <;> simp [rowMatch, Instr.opcode, commandWord]

theorem and_rowMask_eq_rowMatch_iff {w : Word} {i : Instr} :
    w &&& 0xE00000FF#32 = rowMatch i ↔ rsvField w = 0#3 ∧ opField w = i.opcode := by
  simp only [rowMatch_eq_commandWord, and_eq_commandWord_iff]
  simp [rsvField, opField, imm8Field, idxField, tagField, ackField, partField]

theorem exists_decode_of_opcode {w : Word} {i : Instr} (hrsv : rsvField w = 0#3) (hop : opField w = i.opcode) :
    ∃ j : Instr, decode w = .ok j ∧ j.opcode = i.opcode := by
  obtain ⟨j, hj, hopd⟩ := exists_operandsIn w i
  exact ⟨j, decode_eq_ok_iff.mpr ⟨hrsv, hop.trans hj.symm, hopd⟩, hj⟩

/-- Settles O3: a row matches when RSV is 0 and OP is the row's. -/
theorem decodeSelectsTheRowThatMatches : Obligations.DecodeSelectsTheRowThatMatches := by
  refine ⟨fun w i h => ?_, fun w i h => ?_, fun w h => decode_error_of_forall_ne fun i hi => ?_⟩
  · obtain ⟨hrsv, hop, -⟩ := decode_eq_ok_iff.mp h
    exact and_rowMask_eq_rowMatch_iff.mpr ⟨hrsv, hop⟩
  · obtain ⟨hrsv, hop⟩ := and_rowMask_eq_rowMatch_iff.mp h
    obtain ⟨j, hj, hop'⟩ := exists_decode_of_opcode hrsv hop
    exact ⟨j, hj, by rw [rowMatch_eq_commandWord, rowMatch_eq_commandWord, hop']⟩
  · obtain ⟨hrsv, hop, -⟩ := decode_eq_ok_iff.mp hi
    exact h i (and_rowMask_eq_rowMatch_iff.mpr ⟨hrsv, hop⟩)

/-- Settles O4: fourteen closed words, each evaluated. -/
theorem wordsWrittenInTheSpecDecode : Obligations.WordsWrittenInTheSpecDecode := by
  unfold Obligations.WordsWrittenInTheSpecDecode
  decide

/-! The reserved words (spec/30_encoding.md R56), in numbers. -/

theorem rsvField_eq_zero_iff (w : Word) : rsvField w = 0#3 ↔ w.toNat / 2 ^ 29 = 0 := by
  have := w.isLt
  rw [← BitVec.toNat_inj, rsvField, BitVec.extractLsb'_toNat, Nat.shiftRight_eq_div_pow]
  simp
  omega

theorem toNat_opField (w : Word) : (opField w).toNat = w.toNat % 256 := by
  simp [opField]

/-- The ranges of reserved OP values (spec/30_encoding.md R56). -/
def ReservedOpcode (n : Nat) : Prop :=
  (0x04 ≤ n ∧ n ≤ 0x0F) ∨ (0x13 ≤ n ∧ n ≤ 0x1F) ∨ (0x21 ≤ n ∧ n ≤ 0x2F) ∨ (0x32 ≤ n ∧ n ≤ 0xFF)

theorem not_reservedOpcode_opcode (i : Instr) : ¬ ReservedOpcode i.opcode.toNat := by
  cases i <;> simp [ReservedOpcode, Instr.opcode]

theorem exists_opcode_of_not_reserved {op : Byte} (h : ¬ ReservedOpcode op.toNat) : ∃ i : Instr, op = i.opcode := by
  have hlt := op.isLt
  have hop : op.toNat = 0x00 ∨ op.toNat = 0x01 ∨ op.toNat = 0x02 ∨ op.toNat = 0x03 ∨ op.toNat = 0x10 ∨
      op.toNat = 0x11 ∨ op.toNat = 0x12 ∨ op.toNat = 0x20 ∨ op.toNat = 0x30 ∨ op.toNat = 0x31 := by
    unfold ReservedOpcode at h
    omega
  obtain hop | hop | hop | hop | hop | hop | hop | hop | hop | hop := hop
  · exact ⟨.nop, BitVec.eq_of_toNat_eq hop⟩
  · exact ⟨.crcClear, BitVec.eq_of_toNat_eq hop⟩
  · exact ⟨.crcUpdate 0#8, BitVec.eq_of_toNat_eq hop⟩
  · exact ⟨.crcBuf, BitVec.eq_of_toNat_eq hop⟩
  · exact ⟨.enc 0#3 false false, BitVec.eq_of_toNat_eq hop⟩
  · exact ⟨.rewriteId 0 0#8, BitVec.eq_of_toNat_eq hop⟩
  · exact ⟨.rewriteAll 0#8, BitVec.eq_of_toNat_eq hop⟩
  · exact ⟨.dec, BitVec.eq_of_toNat_eq hop⟩
  · exact ⟨.reasmReset, BitVec.eq_of_toNat_eq hop⟩
  · exact ⟨.reasmAccept, BitVec.eq_of_toNat_eq hop⟩

theorem decode_error_of_reserved {w : Word} (h : w.toNat / 2 ^ 29 ≠ 0 ∨ ReservedOpcode (w.toNat % 256)) :
    ∃ r, decode w = .error r := by
  refine decode_error_of_forall_ne fun i hi => ?_
  obtain ⟨hrsv, hop, -⟩ := decode_eq_ok_iff.mp hi
  obtain h | h := h
  · exact h ((rsvField_eq_zero_iff w).mp hrsv)
  · rw [← toNat_opField, hop] at h
    exact not_reservedOpcode_opcode i h

theorem exists_decode_of_not_reserved {w : Word}
    (h : ¬ (w.toNat / 2 ^ 29 ≠ 0 ∨ ReservedOpcode (w.toNat % 256))) : ∃ i : Instr, i.wf = true ∧ decode w = .ok i := by
  obtain ⟨hrsv, hop⟩ := not_or.mp h
  rw [not_not, ← rsvField_eq_zero_iff] at hrsv
  rw [← toNat_opField] at hop
  obtain ⟨i, hi⟩ := exists_opcode_of_not_reserved hop
  obtain ⟨j, hj, -⟩ := exists_decode_of_opcode hrsv hi
  obtain ⟨-, -, hopd⟩ := decode_eq_ok_iff.mp hj
  exact ⟨j, hopd.wf, hj⟩

namespace Machine

theorem runCommand_of_error {w : Word} {r : DecodeReject} (h : decode w = .error r) (s : State) :
    runCommand w s = .next ((s.setCmdWord w).setStatus ⟨.illegalCommand, .none⟩) := by
  simp [runCommand, h, illegalCommand, raise]

/-- Settles O5: a reserved word decodes to no command, and every other word to a well-formed one. -/
theorem reservedWordsRaiseIllegalCommand : Obligations.ReservedWordsRaiseIllegalCommand := by
  intro s w rest hl hp
  refine ⟨fun hres => ?_, fun hres => ?_⟩
  · obtain ⟨r, hr⟩ := decode_error_of_reserved hres
    rw [step_writeReg hl hp, writeRegister_cmd, runCommand_of_error hr]
    rfl
  · obtain ⟨i, hwf, hi⟩ := exists_decode_of_not_reserved hres
    exact ⟨i, hwf, hi, stepRunsTheDecodedCommand s w i rest hl hp hi⟩

end Machine

end Sys2Proof
end

section
/-! PROOFS. STATUS after every command (spec/10_state.md R21, spec/30_encoding.md R64, R65): how each command that can fail
ends, and the decoder's failing checks in numbers. -/

namespace Sys2Proof.Machine

section
variable {s t : State}

/-! How the commands with one error end. -/

theorem execCrcBuf_status (h : execCrcBuf s = .next t) :
    t.status = ⟨.ok, .none⟩ ∨ t.status = ⟨.invalidArgument, .none⟩ ∧ s.cfg.inSize < s.len.toNat := by
  unfold execCrcBuf inputFits at h
  split at h
  · obtain rfl := (finish_eq_next _ _).mp h
    exact .inl rfl
  · next hlen =>
    obtain rfl := (raise_eq_next _ _ _ _).mp h
    exact .inr ⟨rfl, not_le.mp (mt decide_eq_true hlen)⟩

theorem execRewriteId_status {k : Nat} {id : Byte} (h : execRewriteId k id s = .next t) :
    t.status = ⟨.ok, .none⟩ ∨ t.status = ⟨.invalidArgument, .none⟩ ∧ s.encResult.frameCount.toNat ≤ k := by
  unfold execRewriteId at h
  split at h
  · next hk =>
    obtain rfl := (raise_eq_next _ _ _ _).mp h
    exact .inr ⟨rfl, hk⟩
  · obtain rfl := (finish_eq_next _ _).mp h
    exact .inl rfl

theorem execRewriteAll_status {id : Byte} (h : execRewriteAll id s = .next t) :
    t.status = ⟨.ok, .none⟩ ∨ t.status = ⟨.invalidArgument, .none⟩ ∧ s.encResult.frameCount = 0#8 := by
  unfold execRewriteAll at h
  split at h
  · next hk =>
    obtain rfl := (raise_eq_next _ _ _ _).mp h
    exact .inr ⟨rfl, hk⟩
  · obtain rfl := (finish_eq_next _ _).mp h
    exact .inl rfl

/-! The errors of ENC. -/

theorem tagNamed_iff (tag : BitVec 3) : tagNamed tag = true ↔ tag ≠ 0#3 ∧ tag ≠ 7#3 := by
  revert tag
  decide

theorem tagNamed_eq_false_iff (tag : BitVec 3) : tagNamed tag = false ↔ tag = 0#3 ∨ tag = 7#3 := by
  rw [← Bool.not_eq_true, tagNamed_iff, not_and_or, not_not, not_not]

/-- The splitter refuses only more than F*M bytes, in an illegal configuration too: with M = 0 it counts no fragment. -/
theorem lt_of_split_eq_none {c : Config} {len : Nat} {base : FrameFlags} (h : split c len base = none) :
    c.maxFragments * c.maxPayload < len := by
  unfold split at h
  split_ifs at h with hone hlimit
  have hM : 1 ≤ c.maxPayload := by
    by_contra h0
    simp [fragmentCount, show c.maxPayload = 0 by omega] at hlimit
  by_contra hle
  exact absurd ((fragmentCount_le_iff c hM len).mpr (by omega)) (by omega)

/-! The errors of DEC. -/

theorem toNat_halfOfBytes (lo hi : Byte) : (halfOfBytes lo hi).toNat = lo.toNat + 256 * hi.toNat := by
  exact toNat_append_eq_add hi lo

theorem toNat_flagsTag_byteFlags (b : Byte) : (flagsTag (byteFlags b)).toNat = b.toNat % 8 := by
  simp [flagsTag, byteFlags]

theorem toNat_flagsRsv_byteFlags (b : Byte) : (flagsRsv (byteFlags b)).toNat = b.toNat % 128 / 32 := by
  simp [flagsRsv, byteFlags, Nat.shiftRight_eq_div_pow]
  omega

/-- Flags are refused for a reserved bit or a tag that names no package kind (spec/30_encoding.md R63). -/
theorem flagsValid_byteFlags_eq_false_iff (b : Byte) : flagsValid (byteFlags b) = false ↔
    32 ≤ b.toNat % 128 ∨ b.toNat % 8 = 0 ∨ b.toNat % 8 = 7 := by
  rw [flagsValid, Bool.and_eq_false_iff, decide_eq_false_iff_not, ← BitVec.toNat_inj, toNat_flagsRsv_byteFlags,
    tagNamed, toNat_flagsTag_byteFlags]
  simp
  omega

/-- The failing check that DEC reports, with the checks before it passed, said in numbers (spec/30_encoding.md R65). -/
theorem decodeFrame_error_cases {c : Config} {n : Nat} {m : Memory} {r : FrameReason}
    (h : decodeFrame c n m = .error r) :
    let rx := (m.read (n - 2)).toNat + 256 * (m.read (n - 1)).toNat
    let cc := (checksum c.crc (m.load 0 (n - 2))).toNat
    let len := (m.read 2).toNat
    let b0 := (m.read 0).toNat
    r = .truncated ∧ n < 5 ∨
      r = .checksumMismatch ∧ 5 ≤ n ∧ rx ≠ cc ∨
      r = .oversize ∧ 5 ≤ n ∧ rx = cc ∧ c.maxPayload < len ∨
      r = .lengthMismatch ∧ 5 ≤ n ∧ rx = cc ∧ len ≤ c.maxPayload ∧ n ≠ len + 5 ∨
      r = .invalidFlags ∧ rx = cc ∧ len ≤ c.maxPayload ∧ n = len + 5 ∧
        (32 ≤ b0 % 128 ∨ b0 % 8 = 0 ∨ b0 % 8 = 7) := by
  intro rx cc len b0
  have hrx : halfOfBytes (m.read (n - 2)) (m.read (n - 1)) = checksum c.crc (m.load 0 (n - 2)) ↔ rx = cc := by
    rw [← BitVec.toNat_inj, toNat_halfOfBytes]
  unfold decodeFrame at h
  simp only at h
  split_ifs at h with hshort hcrc hsize hlen hflags
  · obtain rfl := Except.error.inj h
    exact .inl ⟨rfl, hshort⟩
  · obtain rfl := Except.error.inj h
    exact .inr (.inl ⟨rfl, not_lt.mp hshort, mt hrx.mpr hcrc⟩)
  · obtain rfl := Except.error.inj h
    exact .inr (.inr (.inl ⟨rfl, not_lt.mp hshort, hrx.mp (not_not.mp hcrc), hsize⟩))
  · obtain rfl := Except.error.inj h
    exact .inr (.inr (.inr (.inl ⟨rfl, not_lt.mp hshort, hrx.mp (not_not.mp hcrc), not_lt.mp hsize, hlen⟩)))
  · obtain rfl := Except.error.inj h
    rw [Bool.not_eq_true', flagsValid_byteFlags_eq_false_iff] at hflags
    exact .inr (.inr (.inr (.inr ⟨rfl, hrx.mp (not_not.mp hcrc), not_lt.mp hsize, not_not.mp hlen, hflags⟩)))

/-! Every command. -/

/-- A command that ends well has a good STATUS. -/
theorem statusOk_and_ok_of_finish (h : finish s = .next t) : StatusOk t ∧ t.status.err = .ok := by
  obtain rfl := (finish_eq_next _ _).mp h
  exact ⟨.of_none rfl (by decide) (by decide), rfl⟩

/-- A command whose one error is InvalidArgument has a good STATUS. -/
theorem statusOk_and_ok_or_invalidArgument {cond : Prop}
    (h : t.status = ⟨.ok, .none⟩ ∨ t.status = ⟨.invalidArgument, .none⟩ ∧ cond) :
    StatusOk t ∧ (t.status.err = .ok ∨ t.status.err = .invalidArgument ∧ cond) := by
  obtain h | ⟨h, hc⟩ := h
  · exact ⟨.of_none h (by decide) (by decide), .inl (by rw [h])⟩
  · exact ⟨.of_none h (by decide) (by decide), .inr ⟨by rw [h], hc⟩⟩

end

/-- Settles O20, command by command from how each ends. -/
theorem statusAfterEveryCommand : Obligations.StatusAfterEveryCommand := by
  refine ⟨rfl, rfl, fun i s t h => ?_, fun w r s t hd h => ?_⟩
  · cases i with
    | nop => exact statusOk_and_ok_of_finish h
    | crcClear => exact statusOk_and_ok_of_finish h
    | crcUpdate data => exact statusOk_and_ok_of_finish h
    | crcBuf => exact statusOk_and_ok_or_invalidArgument (execCrcBuf_status h)
    | enc tag ack part =>
      obtain ⟨hlen, rfl⟩ | ⟨hlen, htag, rfl⟩ | ⟨hlen, htag, hsplit, rfl⟩ | ⟨-, -, _, _, -, -, rfl⟩ := execEnc_cases h
      · exact ⟨.of_none rfl (by decide) (by decide), .inr (.inl ⟨rfl, hlen⟩)⟩
      · have htags := (tagNamed_eq_false_iff tag).mp htag
        exact ⟨.of_none rfl (by decide) (by decide), .inr (.inr (.inl ⟨rfl, hlen, htags⟩))⟩
      · obtain ⟨h0, h7⟩ := (tagNamed_iff tag).mp htag
        exact ⟨.of_none rfl (by decide) (by decide),
          .inr (.inr (.inr ⟨rfl, hlen, h0, h7, lt_of_split_eq_none hsplit⟩))⟩
      · exact ⟨.of_none rfl (by decide) (by decide), .inl rfl⟩
    | rewriteId k id => exact statusOk_and_ok_or_invalidArgument (execRewriteId_status h)
    | rewriteAll id => exact statusOk_and_ok_or_invalidArgument (execRewriteAll_status h)
    | dec =>
      obtain ⟨hlen, rfl⟩ | ⟨hlen, r, hr, rfl⟩ | ⟨-, fr, -, rfl⟩ := execDec_cases h
      · exact ⟨.of_none rfl (by decide) (by decide), .inr (.inl ⟨rfl, hlen⟩)⟩
      · exact ⟨statusOk_malformed hr, .inr (.inr ⟨rfl, hlen, decodeFrame_error_cases hr⟩)⟩
      · exact ⟨.of_none rfl (by decide) (by decide), .inl rfl⟩
    | reasmReset => exact statusOk_and_ok_of_finish h
    | reasmAccept => exact statusOk_and_ok_of_finish h
  · rw [runCommand_of_error hd] at h
    obtain rfl := Host.Outcome.next.inj h
    rfl

end Sys2Proof.Machine
end

section
/-! PROOFS. LOADIN and COPYOUT (spec/30_encoding.md R69): what the host operations they stand for do to the block, one after
the other. -/

namespace Sys2Proof.Machine

/-- WRIN is one run of bounded stores into IN_BUF. -/
theorem runEvents_writeIn (bytes : List Byte) (i : Nat) (s : State) :
    runEvents (writeIn i bytes) s = .next (s.setInBuf (s.inBuf.storeBytes s.cfg.inSize i bytes)) := by
  induction bytes generalizing i s with
  | nil => rfl
  | cons b bs ih => exact ih (i + 1) (s.setInBuf (s.inBuf.store s.cfg.inSize i b))

/-- Reading OUT_BUF leaves the last answer in `response` and does nothing else. -/
theorem runEvents_readOut (n i : Nat) (s : State) : ∃ r, runEvents (readOut i n) s = .next (s.setResponse r) := by
  induction n generalizing i s with
  | zero => exact ⟨s.response, rfl⟩
  | succ n ih => exact ih (i + 1) (s.setResponse (.byte (bufferByte s .outBuf i)))

theorem runEvents_writeLen (n : Nat) (s : State) :
    runEvents (writeLen (BitVec.ofNat 32 n)) s = .next (s.setLen (BitVec.ofNat 16 n)) := by
  have hn : (BitVec.ofNat 32 n).extractLsb' 0 16 = BitVec.ofNat 16 n := by
    apply BitVec.eq_of_toNat_eq
    simp
  have hwrite : hostEvent (.writeReg 0x04#8 (BitVec.ofNat 32 n)) s = .next (s.setLen (BitVec.ofNat 16 n)) := by
    rw [hostEvent, writeRegister_len, hn]
  exact runEvents_cons_of_next hwrite []

/-- The block with `bytes` loaded as its input: what LOADIN makes of it. -/
def State.loaded (s : State) (bytes : List Byte) : State :=
  (s.setInBuf (s.inBuf.storeBytes s.cfg.inSize 0 bytes)).setLen (BitVec.ofNat 16 bytes.length)

theorem runEvents_loadInput (bytes : List Byte) (s : State) :
    runEvents (loadInput bytes) s = .next (s.loaded bytes) := by
  rw [loadInput, runEvents_append _ _ _ _ (runEvents_writeIn bytes 0 s)]
  exact runEvents_writeLen bytes.length _

/-- LEN counts bytes that fit into IN_BUF: IN_SIZE is at most 65535 (spec/00_scope.md R8). -/
theorem holdsInput_loaded {s : State} {bytes : List Byte} (hl : s.cfg.legal = true) (hw : s.inBuf.wf)
    (hlen : bytes.length ≤ s.cfg.inSize) : HoldsInput (s.loaded bytes) bytes := by
  obtain ⟨-, -, -, -, -, -, hsize, -⟩ := s.cfg.legal_iff.mp hl
  exact ⟨Nat.mod_eq_of_lt (by omega), Memory.load_storeBytes_self hw (by omega)⟩

theorem read_loaded_of_le {s : State} {bytes : List Byte} {a : Nat} (ha : bytes.length ≤ a) :
    (s.loaded bytes).inBuf.read a = s.inBuf.read a :=
  Memory.read_storeBytes_outside bytes s.inBuf 0 (by omega)

/-- A frame of OUT_BUF fits into IN_BUF: IN_SIZE is at least M + 5 (spec/00_scope.md R8). -/
theorem length_frameBytes_le_inSize {s : State} {k : Nat} (h : Inv s) (hk : k < s.encResult.frameCount.toNat) :
    (frameBytes s.outBuf k).length ≤ s.cfg.inSize := by
  obtain ⟨-, -, -, -, -, hsize, -⟩ := s.cfg.legal_iff.mp h.legal
  obtain ⟨v, f, id, payload, hpl, -, hb⟩ := h.frames.frames k hk
  rw [hb, length_wireFrame]
  omega

/-- Settles O57: LOADIN is one run of stores and a write of LEN, and COPYOUT's reads before it change `response` alone. -/
theorem loadInAndCopyOutHoldTheirBytes : Obligations.LoadInAndCopyOutHoldTheirBytes := by
  refine ⟨fun s bytes hl hw hlen => ?_, fun s k h hk => ?_⟩
  · exact ⟨s.loaded bytes, runEvents_loadInput bytes s, holdsInput_loaded hl hw hlen, rfl, fun a => read_loaded_of_le⟩
  · obtain ⟨r, hr⟩ := runEvents_readOut (5 + frameLength s.outBuf k) (frameOffset s.outBuf k) s
    have hrun : runEvents (expand s (.copyOut k)) s = .next ((s.setResponse r).loaded (frameBytes s.outBuf k)) := by
      rw [expand, runEvents_append _ _ _ _ hr, runEvents_loadInput]
    exact ⟨_, hrun, holdsInput_loaded h.legal h.memory.inWf (length_frameBytes_le_inSize h hk), rfl,
      fun a => read_loaded_of_le⟩

end Sys2Proof.Machine
end

section
/-! PROOFS. The checksum generator (spec/40_crc.md): the arithmetic of R70 to R73, where XOR is the addition of polynomials
over GF(2), and the commands CRC.CLEAR, CRC.UPDATE and CRC.BUF (R74 to R77). Every part of crc_step maps XOR to XOR, so
crc_raw is affine; every part is injective when the generator has a constant term, so no difference between two states or two
bytes is ever lost. -/

namespace Sys2Proof.Machine

/-! XOR goes through every part of crc_step. -/

section
variable (p : CrcParams)

theorem reflect_xor {n : Nat} (v w : BitVec n) : reflect (v ^^^ w) = reflect v ^^^ reflect w := by
  unfold reflect
  ext i hi
  simp only [BitVec.getElem_xor, BitVec.getElem_reverse, BitVec.getMsbD_xor]

theorem crcShift_eq_xor_ite (s : Half) :
    crcShift p s = (s <<< 1) ^^^ (if s.getLsbD 15 then p.poly else 0#16) := by
  unfold crcShift
  split <;> simp

theorem crcShift_xor (s t : Half) : crcShift p (s ^^^ t) = crcShift p s ^^^ crcShift p t := by
  have hpoly (a b : Bool) : (if a ^^ b then p.poly else 0#16) =
      (if a then p.poly else 0#16) ^^^ (if b then p.poly else 0#16) := by
    cases a <;> cases b <;> simp
  rw [crcShift_eq_xor_ite, crcShift_eq_xor_ite, crcShift_eq_xor_ite, BitVec.getLsbD_xor, hpoly,
    BitVec.shiftLeft_xor_distrib]
  ac_rfl

theorem crcInput_xor (b c : Byte) : crcInput p (b ^^^ c) = crcInput p b ^^^ crcInput p c := by
  unfold crcInput
  split
  · exact reflect_xor b c
  · rfl

/-- zext_16(d) << 8 of spec/40_crc.md R70: the input byte above eight zeros. -/
def crcAligned (p : CrcParams) (b : Byte) : Half := (crcInput p b).setWidth 16 <<< 8

theorem crcAligned_xor (b c : Byte) : crcAligned p (b ^^^ c) = crcAligned p b ^^^ crcAligned p c := by
  rw [crcAligned, crcInput_xor, BitVec.setWidth_xor, BitVec.shiftLeft_xor_distrib]
  rfl

/-- crc_step is eight shifts of the state with the byte put in. -/
theorem crcStep_eq_iterate (s : Half) (b : Byte) : crcStep p s b = (crcShift p)^[8] (s ^^^ crcAligned p b) := rfl

theorem crcStep_xor (s t : Half) (b c : Byte) :
    crcStep p (s ^^^ t) (b ^^^ c) = crcStep p s b ^^^ crcStep p t c := by
  have hshift : Function.Semiconj₂ (crcShift p) (· ^^^ ·) (· ^^^ ·) := crcShift_xor p
  simp only [crcStep_eq_iterate]
  rw [← (hshift.iterate 8).eq, crcAligned_xor]
  congr 1
  ac_rfl

/-- Adding the state and the byte to themselves leaves nothing (spec/40_crc.md R75). -/
theorem crcStep_zero_zero : crcStep p 0#16 0#8 = 0#16 := by
  have h := crcStep_xor p 0#16 0#16 0#8 0#8
  rwa [BitVec.xor_self, BitVec.xor_self, BitVec.xor_self] at h

end

/-! crc_raw over the empty sequence, one more byte, and two sequences. -/

section
variable (p : CrcParams) (s : Half)

@[simp] theorem crcRaw_nil : crcRaw p s [] = s := rfl

@[simp] theorem crcRaw_cons (b : Byte) (bs : List Byte) : crcRaw p s (b :: bs) = crcRaw p (crcStep p s b) bs := rfl

theorem crcRaw_append (bs cs : List Byte) : crcRaw p s (bs ++ cs) = crcRaw p (crcRaw p s bs) cs := List.foldl_append

end

/-- crc_raw maps XOR of states and of sequences to XOR (spec/40_crc.md R73). -/
theorem crcRaw_xor (p : CrcParams) (s t : Half) {m e : List Byte} (h : m.length = e.length) :
    crcRaw p (s ^^^ t) (List.zipWith (· ^^^ ·) m e) = crcRaw p s m ^^^ crcRaw p t e := by
  induction m generalizing e s t with
  | nil =>
    obtain rfl := List.eq_nil_of_length_eq_zero h.symm
    rfl
  | cons b m ih =>
    cases e with
    | nil => cases h
    | cons c e => rw [List.zipWith_cons_cons, crcRaw_cons, crcStep_xor, ih _ _ (Nat.succ.inj h), crcRaw_cons, crcRaw_cons]

/-- Settles O29: the state is itself XOR 0. -/
theorem crcRawIsAffine : Obligations.CrcRawIsAffine := by
  intro p s0 m e h
  conv_lhs => rw [← BitVec.xor_zero (x := s0)]
  exact crcRaw_xor p s0 0x0000#16 h

/-! No part of the checksum loses a difference, whatever it reflects and XORs in: only the shift asks that the generator
polynomial has its constant term, the bit shifted out of bit 15 coming back as bit 0. -/

theorem reflect_injective {n : Nat} : Function.Injective (reflect : BitVec n → BitVec n) :=
  Function.LeftInverse.injective (g := reflect) fun _ => BitVec.reverse_reverse_eq

section
variable {p : CrcParams}

theorem crcInput_injective : Function.Injective (crcInput p) := by
  intro b c h
  unfold crcInput at h
  split at h
  · exact reflect_injective h
  · exact h

theorem crcAligned_injective : Function.Injective (crcAligned p) := by
  intro b c h
  refine crcInput_injective (p := p) (BitVec.eq_of_getLsbD_eq fun i hi => ?_)
  have hbit := congrArg (BitVec.getLsbD · (i + 8)) h
  have hlow : i + 8 < 16 ∧ i < 16 := by omega
  simpa [crcAligned, hi, hlow] using hbit

/-- The bit shifted out decides bit 0. -/
theorem getLsbD_zero_crcShift (hp : p.poly.getLsbD 0 = true) (s : Half) : (crcShift p s).getLsbD 0 = s.getLsbD 15 := by
  unfold crcShift
  split <;> simp_all

theorem crcShift_injective (hp : p.poly.getLsbD 0 = true) : Function.Injective (crcShift p) := by
  intro s t h
  have htop : s.getLsbD 15 = t.getLsbD 15 := by rw [← getLsbD_zero_crcShift hp, h, getLsbD_zero_crcShift hp]
  have hshift : s <<< 1 = t <<< 1 := by
    rwa [crcShift_eq_xor_ite, crcShift_eq_xor_ite, htop, BitVec.xor_left_inj] at h
  refine BitVec.eq_of_getLsbD_eq fun i hi => ?_
  obtain rfl | hlow : i = 15 ∨ i + 1 < 16 := by omega
  · exact htop
  · have hbit := congrArg (BitVec.getLsbD · (i + 1)) hshift
    simpa [hlow, hi] using hbit

theorem crcStep_state_injective (hp : p.poly.getLsbD 0 = true) (b : Byte) : Function.Injective (crcStep p · b) :=
  fun _ _ h => (BitVec.xor_left_inj (crcAligned p b)).mp ((crcShift_injective hp).iterate 8 h)

theorem crcStep_byte_injective (hp : p.poly.getLsbD 0 = true) (s : Half) : Function.Injective (crcStep p s) :=
  fun _ _ h => crcAligned_injective ((BitVec.xor_right_inj s).mp ((crcShift_injective hp).iterate 8 h))

theorem crcRaw_state_injective (hp : p.poly.getLsbD 0 = true) (bs : List Byte) : Function.Injective (crcRaw p · bs) := by
  induction bs with
  | nil => exact Function.injective_id
  | cons b bs ih => exact ih.comp (crcStep_state_injective hp b)

theorem crcFinalize_injective : Function.Injective (crcFinalize p) := by
  intro s t h
  have hreflect := (BitVec.xor_left_inj p.xorout).mp h
  split at hreflect
  · exact reflect_injective hreflect
  · exact hreflect

/-- Two sequences that differ in one byte have different checksums. -/
theorem checksum_ne_of_byte_ne (hp : p.poly.getLsbD 0 = true) {b c : Byte} (hne : b ≠ c) (before after : List Byte) :
    checksum p (before ++ b :: after) ≠ checksum p (before ++ c :: after) := by
  intro h
  have hraw := crcFinalize_injective h
  rw [crcRaw_append, crcRaw_append, crcRaw_cons, crcRaw_cons] at hraw
  exact hne (crcStep_byte_injective hp _ (crcRaw_state_injective hp after hraw))

end

/-- A flipped bit makes another byte. -/
theorem ne_xor_one_shiftLeft (b : Byte) {j : Nat} (hj : j < 8) : b ≠ b ^^^ (1#8 <<< j) := by
  intro h
  have hbit := congrArg (BitVec.getLsbD · j) h
  simp [hj] at hbit

/-- Settles O31: the default polynomial x^16 + x^12 + x^5 + 1 has its constant term, and a flipped bit is a changed byte. -/
theorem crcTellsEverySingleBitApart : Obligations.CrcTellsEverySingleBitApart :=
  fun before after b _ hj => checksum_ne_of_byte_ne (by decide) (ne_xor_one_shiftLeft b hj) before after

/-! The three commands. -/

/-- A word that matches a command's row and holds its operands is that command. -/
theorem decode_of_rowMatch {w : Word} {i : Instr} (hw : w &&& 0xE00000FF#32 = rowMatch i) (hi : i.OperandsIn w) :
    decode w = .ok i := by
  obtain ⟨hrsv, hop⟩ := and_rowMask_eq_rowMatch_iff.mp hw
  exact decode_eq_ok_iff.mpr ⟨hrsv, hop, hi⟩

theorem imm8Field_eq_ofNat (w : Word) : imm8Field w = BitVec.ofNat 8 (w.toNat / 2 ^ 8 % 2 ^ 8) := by
  apply BitVec.eq_of_toNat_eq
  simp [imm8Field, Nat.shiftRight_eq_div_pow]

theorem exec_crcClear (s : State) : exec .crcClear s =
    .next { s with crcState := s.cfg.crc.init, status := { err := .ok, reason := .none } } := rfl

theorem exec_crcUpdate (b : Byte) (s : State) : exec (.crcUpdate b) s =
    .next { s with crcState := crcStep s.cfg.crc s.crcState b, status := { err := .ok, reason := .none } } := rfl

theorem exec_crcBuf_of_lt {s : State} (h : s.cfg.inSize < s.len.toNat) :
    exec .crcBuf s = .next { s with status := { err := .invalidArgument, reason := .none } } :=
  if_neg (mt of_decide_eq_true (not_le.mpr h))

theorem exec_crcBuf_of_le {s : State} (h : s.len.toNat ≤ s.cfg.inSize) :
    exec .crcBuf s = .next { s with
      crcState := crcRaw s.cfg.crc s.cfg.crc.init (s.inBuf.load 0 s.len.toNat)
      status := { err := .ok, reason := .none } } :=
  if_pos (decide_eq_true h)

/-- CRC.RESULT is the checksum of the bytes whose raw CRC the accumulator holds (spec/10_state.md R22). -/
theorem regWord_crc_high_half_of_crcRaw {s : State} {bs : List Byte} (h : s.crcState = crcRaw s.cfg.crc s.cfg.crc.init bs) :
    (regWord s 0x10#8).extractLsb' 16 16 = checksum s.cfg.crc bs := by
  rw [regWord_crc, crcWord_high_half, h, checksum]

/-- Settles O25: every word of the row is CRC.CLEAR, which has no operand. -/
theorem crcClearSetsInit : Obligations.CrcClearSetsInit :=
  ⟨exec_crcClear, fun _ hw => decode_of_rowMatch hw trivial⟩

/-- Settles O26: the operand is IMM8, 0 stays 0 by additivity, and the two numbers are evaluated. -/
theorem crcUpdateAdvancesByOneByte : Obligations.CrcUpdateAdvancesByOneByte :=
  ⟨exec_crcUpdate, fun w hw => decode_of_rowMatch hw (imm8Field_eq_ofNat w), crcStep_zero_zero, by decide, by decide⟩

/-- Settles O27 by the two ends of CRC.BUF. -/
theorem crcBufChecksumsTheInput : Obligations.CrcBufChecksumsTheInput := by
  refine ⟨fun w hw => decode_of_rowMatch hw trivial, fun s => ⟨exec_crcBuf_of_lt, fun hle => ?_⟩⟩
  refine ⟨_, exec_crcBuf_of_le hle, rfl, regWord_crc_high_half_of_crcRaw rfl, fun hlen => ?_⟩
  rw [hlen]
  rfl

/-! An accumulation over several commands (spec/40_crc.md R77). -/

/-- The byte that a command feeds to the accumulator. -/
def fedByte : Instr → Option Byte
  | .crcUpdate b => some b
  | _ => none

/-- A command other than CRC.CLEAR and CRC.BUF feeds its byte, if it has one, and else leaves the accumulator. -/
theorem exec_crcState {i : Instr} {s t : State} (h : exec i s = .next t) (hClear : i ≠ .crcClear) (hBuf : i ≠ .crcBuf) :
    t.crcState = crcRaw s.cfg.crc s.crcState (fedByte i).toList := by
  obtain ⟨-, hkeep, -⟩ := crcRegisterHoldsTheAccumulator
  cases i with
  | crcUpdate b =>
    rw [exec_crcUpdate] at h
    obtain rfl := Host.Outcome.next.inj h
    rfl
  | crcClear => exact absurd rfl hClear
  | crcBuf => exact absurd rfl hBuf
  | _ => exact hkeep _ s t h hClear nofun hBuf

/-- A line with a command is a write of CMD with the command's word, and so runs the command. -/
theorem runLines_command_cons {i : Instr} {s t : State} (hwf : i.wf = true)
    (h : exec i (s.setCmdWord (encode i)) = .next t) (ls : List HostLine) :
    runLines (.command i :: ls) s = runLines ls t := by
  have hevent : hostEvent (.writeReg 0x00#8 (encode i)) s = .next t := by
    rw [hostEvent, writeRegister_cmd, runCommand_of_decode (decodeOfEncodeIsTheCommand i hwf), h]
  have hline : runEvents (expand s (.command i)) s = .next t := runEvents_cons_of_next hevent []
  rw [runLines, hline]

/-- Commands other than CRC.CLEAR and CRC.BUF carry the accumulation on over the bytes of their CRC.UPDATE commands. -/
theorem runLines_accumulate (cs : List Instr) (s : State)
    (hcs : ∀ i ∈ cs, i.wf = true ∧ i ≠ .crcClear ∧ i ≠ .crcBuf) :
    ∃ t, runLines (cs.map .command) s = .next t ∧ t.cfg = s.cfg ∧
      t.crcState = crcRaw s.cfg.crc s.crcState (cs.filterMap fedByte) := by
  induction cs generalizing s with
  | nil => exact ⟨s, rfl, rfl, rfl⟩
  | cons i cs ih =>
    obtain ⟨⟨hwf, hClear, hBuf⟩, hrest⟩ := List.forall_mem_cons.mp hcs
    obtain ⟨u, hu⟩ := exec_next i (s.setCmdWord (encode i))
    obtain ⟨t, ht, hcfg, hcrc⟩ := ih u hrest
    have hucfg : u.cfg = s.cfg := (exec_keeps_cfg hu).trans (State.setCmdWord_cfg ..)
    have hucrc : u.crcState = crcRaw s.cfg.crc s.crcState (fedByte i).toList := by
      simpa using exec_crcState hu hClear hBuf
    refine ⟨t, (runLines_command_cons hwf hu _).trans ht, hcfg.trans hucfg, ?_⟩
    rw [hcrc, hucfg, hucrc, ← crcRaw_append]
    cases h : fedByte i <;> simp [h]

/-- After CRC.CLEAR and such commands the accumulator holds the raw CRC of their bytes from INIT (spec/40_crc.md R77). -/
theorem runLines_crcClear_accumulate (s : State) (cs : List Instr)
    (hcs : ∀ i ∈ cs, i.wf = true ∧ i ≠ .crcClear ∧ i ≠ .crcBuf) :
    ∃ t, runLines (.command .crcClear :: cs.map .command) s = .next t ∧ t.cfg = s.cfg ∧
      t.crcState = crcRaw s.cfg.crc s.cfg.crc.init (cs.filterMap fedByte) := by
  rw [runLines_command_cons rfl (exec_crcClear _)]
  exact runLines_accumulate cs _ hcs

/-- CRC.BUF of the bytes that the host has loaded (spec/40_crc.md R76). -/
theorem exec_crcBuf_of_holdsInput {u : State} {bytes : List Byte} (hin : HoldsInput u bytes)
    (hle : u.len.toNat ≤ u.cfg.inSize) :
    ∃ v, exec .crcBuf u = .next v ∧ v.crcState = crcRaw u.cfg.crc u.cfg.crc.init bytes := by
  obtain ⟨hlen, hbytes⟩ := hin
  refine ⟨_, exec_crcBuf_of_le hle, ?_⟩
  rw [hlen, hbytes]

/-- Settles O30: both ways give the raw CRC of the same bytes from INIT. -/
theorem crcUpdatesEqualCrcBuf : Obligations.CrcUpdatesEqualCrcBuf := by
  intro s cs hcs bytes
  obtain ⟨t, ht, hcfg, hcrc⟩ := runLines_crcClear_accumulate s cs hcs
  refine ⟨t, ht, hcrc, ?_, fun u hucfg hin hle => ?_⟩
  · rw [← hcfg] at hcrc ⊢
    exact regWord_crc_high_half_of_crcRaw hcrc
  · obtain ⟨v, hv, hvcrc⟩ := exec_crcBuf_of_holdsInput hin hle
    rw [hucfg] at hvcrc
    exact ⟨v, hv, hvcrc.trans hcrc.symm⟩

end Sys2Proof.Machine
end

section
/-! PROOFS. The encoder (spec/41_encoder.md R78 to R84): the chunks of the splitter and the sentinel are the frames that the
payload owes, their number and their bytes in closed form, and what ENC leaves in the state. -/

namespace Sys2Proof.Machine

/-! The flags of the encoder in numbers (spec/41_encoder.md R80 to R82). -/

theorem baseFlags_eq_ofNat : ∀ (tag : BitVec 3) (ack part : Bool),
    baseFlags tag ack part = BitVec.ofNat 7 (tag.toNat + 8 * ack.toNat + 16 * part.toNat) := by decide

theorem withPartial_baseFlags_eq_ofNat : ∀ (tag : BitVec 3) (ack part : Bool),
    withPartial (baseFlags tag ack part) = BitVec.ofNat 7 (tag.toNat + 8 * ack.toNat + 16) := by decide

theorem fragment_baseFlags (c : Config) (len : Nat) (tag : BitVec 3) (ack part : Bool) :
    fragment c len (baseFlags tag ack part) = fun i => ⟨BitVec.ofNat 7 (tag.toNat + 8 * ack.toNat + 16),
      i * c.maxPayload, min c.maxPayload (len - i * c.maxPayload)⟩ := by
  rw [← withPartial_baseFlags_eq_ofNat tag ack part]
  rfl

theorem sentinelFlags_baseFlags_eq_ofNat : ∀ (tag : BitVec 3) (ack part : Bool),
    sentinelFlags (withPartial (baseFlags tag ack part)) = BitVec.ofNat 7 (3 + 8 * ack.toNat + 16) := by decide

/-- The fragments carry the FINISH tag when the command does. -/
theorem flagsTag_withPartial_baseFlags_eq_tagFinish_iff (tag : BitVec 3) (ack part : Bool) :
    flagsTag (withPartial (baseFlags tag ack part)) = tagFinish ↔ tag.toNat = 3 := by
  rw [flagsTag_withPartial, flagsTag_baseFlags, ← BitVec.toNat_inj]
  rfl

/-! The owed frames are the frames of the splitter's chunks. -/

section
variable {s : State} {tag : BitVec 3} {ack part : Bool}

theorem owedFrames_of_lt (h : inputLen s < s.cfg.maxPayload) :
    owedFrames s tag ack part = [chunkFrame s ⟨baseFlags tag ack part, 0, inputLen s⟩] := by
  rw [chunkFrame, baseFlags_eq_ofNat]
  exact if_pos h

theorem owedFrames_of_le (h : s.cfg.maxPayload ≤ inputLen s) :
    owedFrames s tag ack part = List.map (chunkFrame s)
      ((List.range (fragmentCount s.cfg (inputLen s))).map (fragment s.cfg (inputLen s) (baseFlags tag ack part)) ++
        if tag.toNat = 3 then [] else [⟨sentinelFlags (withPartial (baseFlags tag ack part)), 0, 0⟩]) := by
  rw [fragment_baseFlags, sentinelFlags_baseFlags_eq_ofNat, List.map_append, List.map_map,
    apply_ite (List.map (chunkFrame s))]
  exact if_neg (not_lt.mpr h)

/-- A ready ENC passes the splitter, and its chunks with the sentinel make the owed frames. -/
theorem split_of_ready (hl : s.cfg.legal = true) (h : EncReady s tag) :
    ∃ chunks, split s.cfg (inputLen s) (baseFlags tag ack part) = some chunks ∧
      (chunks ++ sentinel s.cfg (inputLen s) (baseFlags tag ack part)).map (chunkFrame s) =
        owedFrames s tag ack part := by
  obtain ⟨hM, -⟩ := s.cfg.legal_iff.mp hl
  have hlimit : ¬ fragmentCount s.cfg (inputLen s) > s.cfg.maxFragments :=
    not_lt.mpr ((fragmentCount_le_iff s.cfg hM _).mpr h.limit)
  obtain hlt | hle := Nat.lt_or_ge (inputLen s) s.cfg.maxPayload
  · refine ⟨_, if_pos hlt, ?_⟩
    rw [owedFrames_of_lt hlt, sentinel, if_pos hlt]
    rfl
  · refine ⟨_, (if_neg (not_lt.mpr hle)).trans (if_neg hlimit), ?_⟩
    simp only [owedFrames_of_le hle, sentinel, if_neg (not_lt.mpr hle), flagsTag_withPartial_baseFlags_eq_tagFinish_iff]

end

/-! What a ready ENC does. -/

/-- OUT_LEN can hold every length up to OUT_SIZE (spec/00_scope.md R9). -/
theorem toNat_ofNat_of_le_outSize {c : Config} {n : Nat} (hl : c.legal = true) (h : n ≤ c.outSize) :
    (BitVec.ofNat 16 n).toNat = n := by
  obtain ⟨-, -, -, -, -, -, -, hOut⟩ := c.legal_iff.mp hl
  exact Nat.mod_eq_of_lt (by omega)

/-- The state with `frames` stored back to back in OUT_BUF and counted in ENC_RESULT: what a successful ENC makes of it. -/
def State.encoded (s : State) (frames : List (List Byte)) : State :=
  ((s.setOutBuf (s.outBuf.storeBytes s.cfg.outSize 0 frames.flatten)).setEncResult
    ⟨BitVec.ofNat 8 frames.length, BitVec.ofNat 16 frames.flatten.length⟩).setStatus ⟨.ok, .none⟩

section
variable {s : State} {tag : BitVec 3} (ack part : Bool)

theorem EncReady.tagNamed (h : EncReady s tag) : tagNamed tag = true := by
  simp [Machine.tagNamed, h.tagLow, h.tagHigh]

theorem exec_enc_of_ready (hl : s.cfg.legal = true) (h : EncReady s tag) :
    exec (.enc tag ack part) s = .next (s.encoded (owedFrames s tag ack part)) := by
  obtain ⟨chunks, hsplit, howed⟩ := split_of_ready (ack := ack) (part := part) hl h
  have hfits : inputFits s = true := decide_eq_true h.fits
  simp [exec, execEnc, hfits, h.tagNamed, hsplit, finish, State.encoded, ← howed, List.flatMap_def]

/-- OUT_SIZE holds the owed frames (spec/41_encoder.md R84). -/
theorem length_flatten_owedFrames_le (hl : s.cfg.legal = true) (h : EncReady s tag) :
    (owedFrames s tag ack part).flatten.length ≤ s.cfg.outSize := by
  obtain ⟨-, -, hF, -⟩ := s.cfg.legal_iff.mp hl
  obtain ⟨chunks, hsplit, howed⟩ := split_of_ready (ack := ack) (part := part) hl h
  rw [← howed, ← List.flatMap_def]
  exact length_encoded_le hF hsplit

/-- At most F fragments and a sentinel: FRAME_COUNT can count them. -/
theorem length_owedFrames_le (hl : s.cfg.legal = true) (h : EncReady s tag) :
    (owedFrames s tag ack part).length ≤ s.cfg.maxFragments + 1 := by
  obtain ⟨-, -, hF, -⟩ := s.cfg.legal_iff.mp hl
  obtain ⟨chunks, hsplit, howed⟩ := split_of_ready (ack := ack) (part := part) hl h
  rw [← howed, List.length_map, List.length_append]
  exact Nat.add_le_add (length_split_le hF hsplit) (length_sentinel_le _ _ _)

theorem selfSized_of_mem_owedFrames (hl : s.cfg.legal = true) (h : EncReady s tag) :
    ∀ f ∈ owedFrames s tag ack part, SelfSized f := by
  obtain ⟨chunks, hsplit, howed⟩ := split_of_ready (ack := ack) (part := part) hl h
  have hvalid : flagsValid (baseFlags tag ack part) = true :=
    flagsValid_baseFlags h.tagNamed ack part
  rw [← howed]
  intro f hf
  obtain ⟨ch, hch, rfl⟩ := List.mem_map.mp hf
  exact (wireFrameOk_encoded hvalid hsplit hch).selfSized hl

/-- FRAME_COUNT and OUT_LEN count the owed frames and their bytes without a wrap. -/
theorem toNat_frameCount_encoded (hl : s.cfg.legal = true) (h : EncReady s tag) :
    (s.encoded (owedFrames s tag ack part)).encResult.frameCount.toNat = (owedFrames s tag ack part).length := by
  obtain ⟨-, -, -, hF, -⟩ := s.cfg.legal_iff.mp hl
  have hcount := length_owedFrames_le ack part hl h
  exact Nat.mod_eq_of_lt (by omega)

theorem toNat_outLen_encoded (hl : s.cfg.legal = true) (h : EncReady s tag) :
    (s.encoded (owedFrames s tag ack part)).encResult.outLen.toNat =
      (owedFrames s tag ack part).flatten.length :=
  toNat_ofNat_of_le_outSize hl (length_flatten_owedFrames_le ack part hl h)

end

/-- Settles O33: the owed frames are one run of stores from index 0, inside OUT_BUF. -/
theorem encWritesTheOwedFrames : Obligations.EncWritesTheOwedFrames := by
  intro s tag ack part hl hw h frames
  have hsize := length_flatten_owedFrames_le ack part hl h
  exact ⟨_, exec_enc_of_ready ack part hl h, rfl, Memory.load_storeBytes_self hw (by omega),
    fun a ha => Memory.read_storeBytes_outside _ _ _ (.inr (by rwa [Nat.zero_add]))⟩

/-- Settles O35 by where the frames of a stored list stand. -/
theorem encFramesStandBackToBack : Obligations.EncFramesStandBackToBack := by
  intro s tag ack part hl hw h
  have hself := selfSized_of_mem_owedFrames ack part hl h
  have hsize := length_flatten_owedFrames_le ack part hl h
  refine ⟨_, exec_enc_of_ready ack part hl h, ?_, ?_⟩
  · rw [toNat_frameCount_encoded ack part hl h, toNat_outLen_encoded ack part hl h]
    exact (frameOffset_stored hw _ hself hsize _ le_rfl).trans (by rw [List.take_length])
  · rw [toNat_frameCount_encoded ack part hl h]
    refine List.ext_getElem (by simp) fun k hk hk' => ?_
    rw [List.getElem_map, List.getElem_range]
    exact frameBytes_stored hw _ hself hsize k hk'

/-! How many frames are owed, and how many bytes (spec/41_encoder.md R84). -/

/-- The fragments cut the first n*M bytes of the payload without gap or overlap. -/
theorem sum_fragment_sizes (len m n : Nat) :
    ((List.range n).map fun i => min m (len - i * m)).sum = min len (n * m) := by
  induction n with
  | zero => simp
  | succ n ih =>
    rw [List.range_succ, List.map_append, List.sum_append, ih, Nat.succ_mul]
    simp only [List.map_singleton, List.sum_singleton]
    omega

/-- ceil(L / M) is the least K with L <= K*M. -/
theorem fragmentCount_eq_of_least {c : Config} {len k : Nat} (hM : 1 ≤ c.maxPayload) (hk : len ≤ k * c.maxPayload)
    (hleast : ∀ q, len ≤ q * c.maxPayload → k ≤ q) : fragmentCount c len = k := by
  have hiff (q : Nat) : fragmentCount c len ≤ q ↔ len ≤ q * c.maxPayload :=
    fragmentCount_le_iff { c with maxFragments := q } hM len
  exact le_antisymm ((hiff k).mpr hk) (hleast _ ((hiff _).mp le_rfl))

section
variable {s : State} {tag : BitVec 3} {ack part : Bool} {k : Nat}

theorem owedFrames_lengths_of_lt (h : inputLen s < s.cfg.maxPayload) :
    (owedFrames s tag ack part).length = 1 ∧ (owedFrames s tag ack part).flatten.length = inputLen s + 5 := by
  rw [owedFrames_of_lt h]
  exact ⟨rfl, by rw [List.flatten_singleton, length_chunkFrame, Nat.add_comm]⟩

theorem length_flatten_fragments (base : FrameFlags) (hk : inputLen s ≤ k * s.cfg.maxPayload) :
    (((List.range k).map (fragment s.cfg (inputLen s) base)).map (chunkFrame s)).flatten.length =
      inputLen s + 5 * k := by
  have hsum := sum_fragment_sizes (inputLen s) s.cfg.maxPayload k
  rw [List.length_flatten, List.map_map, List.map_map]
  simp only [Function.comp_def, length_chunkFrame, fragment, List.sum_map_add, hsum]
  simp
  omega

theorem owedFrames_lengths_of_le (hM : 1 ≤ s.cfg.maxPayload) (h : s.cfg.maxPayload ≤ inputLen s)
    (hk : inputLen s ≤ k * s.cfg.maxPayload) (hleast : ∀ q, inputLen s ≤ q * s.cfg.maxPayload → k ≤ q) :
    (owedFrames s tag ack part).length = k + (if tag.toNat = 3 then 0 else 1) ∧
      (owedFrames s tag ack part).flatten.length = inputLen s + 5 * k + (if tag.toNat = 3 then 0 else 5) := by
  rw [owedFrames_of_le h, fragmentCount_eq_of_least hM hk hleast, List.map_append, List.flatten_append,
    List.length_append, List.length_append, length_flatten_fragments _ hk]
  split_ifs <;> simp

end

/-- Settles O34: ENC_RESULT counts the owed frames, which below M bytes are one, and otherwise K and the sentinel. -/
theorem encFrameCountAndOutLen : Obligations.EncFrameCountAndOutLen := by
  intro s tag ack part hl h len m
  obtain ⟨hM, -⟩ := s.cfg.legal_iff.mp hl
  refine ⟨_, exec_enc_of_ready ack part hl h, rfl, ?_⟩
  rw [toNat_frameCount_encoded ack part hl h, toNat_outLen_encoded ack part hl h]
  refine ⟨owedFrames_lengths_of_lt, fun k hm hk hleast => ?_, length_flatten_owedFrames_le ack part hl h⟩
  obtain ⟨hcount, hbytes⟩ := owedFrames_lengths_of_le (tag := tag) (ack := ack) (part := part) hM hm hk hleast
  rw [hcount, hbytes]
  exact ⟨fun htag => by simp [htag, len, inputLen], fun htag => by simp [htag, len, inputLen]⟩

/-! What ENC leaves unchanged (spec/41_encoder.md R83). -/

/-- Settles O36 by the four ways ENC can end: the three errors store nothing, and a success stores below OUT_LEN. -/
theorem encFrame : Obligations.EncFrame := by
  intro s t tag ack part hl h
  obtain ⟨-, -, hF, -⟩ := s.cfg.legal_iff.mp hl
  obtain ⟨-, rfl⟩ | ⟨-, -, rfl⟩ | ⟨-, -, -, rfl⟩ | ⟨-, -, chunks, frames, hsplit, rfl, rfl⟩ := execEnc_cases h
  · exact ⟨rfl, fun _ _ => rfl, fun _ => rfl, fun _ => ⟨rfl, rfl, rfl⟩⟩
  · exact ⟨rfl, fun _ _ => rfl, fun _ => rfl, fun _ => ⟨rfl, rfl, rfl⟩⟩
  · exact ⟨rfl, fun _ _ => rfl, fun _ => rfl, fun _ => ⟨rfl, rfl, rfl⟩⟩
  · refine ⟨rfl, fun a ha => Memory.read_storeBytes_outside _ _ _ (.inr ?_), fun herr => absurd rfl herr,
      fun _ => ⟨rfl, rfl, rfl⟩⟩
    rw [Nat.zero_add]
    exact (toNat_ofNat_of_le_outSize hl (length_encoded_le hF hsplit)).ge.trans ha

end Sys2Proof.Machine
end

section
/-! PROOFS. The identifier rewrite (spec/41_encoder.md R85, R86): what it makes of the frame it names, and one rewrite after
another. -/

namespace Sys2Proof.Machine

open Memory

/-- A byte of a loaded run is the byte that memory holds there. -/
theorem Memory.getElem?_of_load {m : Memory} {i n j : Nat} {bs : List Byte} (h : load m i n = bs) (hj : j < n) :
    bs[j]? = some (read m (i + j)) := by
  subst h
  rw [List.getElem?_eq_getElem (by rwa [length_load]), getElem_load]

/-! One rewritten frame (spec/41_encoder.md R85). -/

section
variable {c : Config} {m : Memory} {id : Byte} {k : Nat}

theorem read_rewriteFrame_id (hm : wf m) (hs : frameOffset m (k + 1) ≤ c.outSize) :
    read (rewriteFrame c id m k) (frameOffset m k + 1) = id := by
  have hget := getElem?_of_load (load_rewriteFrame (id := id) hm hs) (j := 1) (by omega)
  exact (Option.some.inj hget).symm

/-- The last two bytes of the rewritten frame hold the checksum of the bytes before them. -/
theorem checksum_rewriteFrame (hm : wf m) (hs : frameOffset m (k + 1) ≤ c.outSize) :
    halfOfBytes (read (rewriteFrame c id m k) (frameOffset m k + 3 + frameLength m k))
        (read (rewriteFrame c id m k) (frameOffset m k + 4 + frameLength m k)) =
      checksum c.crc (load (rewriteFrame c id m k) (frameOffset m k) (3 + frameLength m k)) := by
  have hload := load_rewriteFrame (id := id) hm hs
  rw [show 5 + frameLength m k = 3 + frameLength m k + 2 by omega, load_add] at hload
  obtain ⟨hhead, hsum⟩ := List.append_inj hload (by simp; omega)
  simp only [load_succ, load_zero, checksumBytes, List.cons.injEq] at hsum
  obtain ⟨hlow, hhigh, -⟩ := hsum
  rw [show frameOffset m k + 3 + frameLength m k = frameOffset m k + (3 + frameLength m k) by omega,
    show frameOffset m k + 4 + frameLength m k = frameOffset m k + (3 + frameLength m k) + 1 by omega,
    hlow, hhigh, hhead, halfOfBytes_low_high]

/-- Under the id it has, a good frame keeps every byte, and so does OUT_BUF. -/
theorem rewriteFrame_same_id {v : Bit} {f : FrameFlags} {pl : List Byte} (hm : wf m)
    (hs : frameOffset m (k + 1) ≤ c.outSize) (hf : frameBytes m k = wireFrame c.crc v f id pl) :
    rewriteFrame c id m k = m := by
  refine ext_read (wf_rewriteFrame hm) hm fun a => ?_
  by_cases ha : frameOffset m k ≤ a ∧ a < frameOffset m k + (5 + frameLength m k)
  · have hbytes : frameBytes (rewriteFrame c id m k) k = frameBytes m k :=
      (frameBytes_rewriteFrame_self hm hs hf).trans hf.symm
    rw [frameBytes, frameBytes, frameOffset_rewriteFrame, frameLength_rewriteFrame] at hbytes
    obtain ⟨j, rfl⟩ := Nat.exists_eq_add_of_le ha.1
    have hj : j < 5 + frameLength m k := by omega
    exact Option.some.inj ((getElem?_of_load hbytes hj).symm.trans (getElem?_of_load rfl hj))
  · exact read_rewriteFrame_outside (by omega) (by omega) (by omega)

/-- The id byte of a wire frame. -/
theorem read_id_of_frameBytes {v : Bit} {f : FrameFlags} {pl : List Byte} {p : CrcParams}
    (hf : frameBytes m k = wireFrame p v f id pl) : read m (frameOffset m k + 1) = id := by
  have hget := getElem?_of_load hf (j := 1) (by omega)
  exact (Option.some.inj hget).symm

end

/-! Several rewrites, one after the other (spec/41_encoder.md R86). -/

section
variable {c : Config} {m : Memory} {id : Byte} {k : Nat}

/-- Only the id bytes and the checksum bytes of the named frames can change. -/
theorem read_rewriteFrames_outside {a : Nat} (ks : List Nat) (m : Memory)
    (h : ∀ k ∈ ks, a ≠ frameOffset m k + 1 ∧ a ≠ frameOffset m k + 3 + frameLength m k ∧
      a ≠ frameOffset m k + 4 + frameLength m k) :
    read (ks.foldl (rewriteFrame c id) m) a = read m a := by
  induction ks generalizing m with
  | nil => rfl
  | cons k ks ih =>
    obtain ⟨⟨h1, h2, h3⟩, hks⟩ := List.forall_mem_cons.mp h
    rw [List.foldl_cons, ih, read_rewriteFrame_outside h1 h2 h3]
    simpa only [frameOffset_rewriteFrame, frameLength_rewriteFrame] using hks

/-- A frame that is named, once or more often, becomes the same frame with the new id; every other frame stays. -/
theorem frameBytes_rewriteFrames {v : Bit} {f : FrameFlags} {pl : List Byte} (ks : List Nat) (m : Memory) (old : Byte)
    (hm : wf m) (hs : frameOffset m (k + 1) ≤ c.outSize) (hf : frameBytes m k = wireFrame c.crc v f old pl) :
    frameBytes (ks.foldl (rewriteFrame c id) m) k = wireFrame c.crc v f (if k ∈ ks then id else old) pl := by
  induction ks generalizing m old with
  | nil => simpa using hf
  | cons j ks ih =>
    have hs' : frameOffset (rewriteFrame c id m j) (k + 1) ≤ c.outSize := by rwa [frameOffset_rewriteFrame]
    rw [List.foldl_cons]
    by_cases hj : k = j
    · subst hj
      rw [ih _ id (wf_rewriteFrame hm) hs' (frameBytes_rewriteFrame_self hm hs hf)]
      simp
    · rw [ih _ old (wf_rewriteFrame hm) hs' ((frameBytes_rewriteFrame_ne hj).trans hf)]
      simp [hj]

end

/-! What the two commands do. -/

section
variable {s : State} {k : Nat} (x : Byte)

theorem exec_rewriteId_of_le (h : s.encResult.frameCount.toNat ≤ k) :
    exec (.rewriteId k x) s = .next (s.setStatus ⟨.invalidArgument, .none⟩) :=
  if_pos h

theorem exec_rewriteId_of_lt (h : k < s.encResult.frameCount.toNat) :
    exec (.rewriteId k x) s = .next ((s.setOutBuf (rewriteFrame s.cfg x s.outBuf k)).setStatus ⟨.ok, .none⟩) :=
  if_neg (not_le.mpr h)

theorem exec_rewriteAll_of_zero (h : s.encResult.frameCount = 0#8) :
    exec (.rewriteAll x) s = .next (s.setStatus ⟨.invalidArgument, .none⟩) :=
  if_pos h

theorem exec_rewriteAll_of_ne_zero (h : s.encResult.frameCount ≠ 0#8) :
    exec (.rewriteAll x) s = .next ((s.setOutBuf
      ((List.range s.encResult.frameCount.toNat).foldl (rewriteFrame s.cfg x) s.outBuf)).setStatus ⟨.ok, .none⟩) :=
  if_neg h

end

/-- Settles O37: the id is stored, the checksum of the frame's other bytes after it, and nothing else. -/
theorem rewriteIdRewritesOneFrame : Obligations.RewriteIdRewritesOneFrame := by
  refine fun s k x => ⟨exec_rewriteId_of_le x, fun h hk => ?_⟩
  have hsize := frameOffset_le_outSize h.frames hk
  refine ⟨_, exec_rewriteId_of_lt x hk, rfl, read_rewriteFrame_id h.memory.outWf hsize, ?_,
    fun a => read_rewriteFrame_outside⟩
  rw [← toNat_halfOfBytes]
  exact congrArg BitVec.toNat (checksum_rewriteFrame h.memory.outWf hsize)

/-- Settles O40: a frame of a state that meets the invariant has its right checksum already. -/
theorem rewriteWithSameIdChangesNothing : Obligations.RewriteWithSameIdChangesNothing := by
  intro s k h hk
  obtain ⟨v, f, id, pl, -, -, hf⟩ := h.frames.frames k hk
  rw [exec_rewriteId_of_lt _ hk, read_id_of_frameBytes hf,
    rewriteFrame_same_id h.memory.outWf (frameOffset_le_outSize h.frames hk) hf]
  rfl

/-- Settles O42 (the name `rewriteFrame` is the model's function): a failed rewrite stores nothing, and REWRITE.ALL is one
rewrite after the other. -/
theorem rewriteFrame_frame : Obligations.RewriteFrame := by
  refine ⟨fun s t k x h => ?_, fun s t x h => ?_⟩
  · obtain hk | hk := Nat.lt_or_ge k s.encResult.frameCount.toNat
    · obtain rfl := Host.Outcome.next.inj ((exec_rewriteId_of_lt x hk).symm.trans h)
      exact ⟨rfl, fun a => read_rewriteFrame_outside, fun herr => absurd rfl herr⟩
    · obtain rfl := Host.Outcome.next.inj ((exec_rewriteId_of_le x hk).symm.trans h)
      exact ⟨rfl, fun _ _ _ _ => rfl, fun _ => rfl⟩
  · by_cases h0 : s.encResult.frameCount = 0#8
    · obtain rfl := Host.Outcome.next.inj ((exec_rewriteAll_of_zero x h0).symm.trans h)
      exact ⟨rfl, fun _ _ => rfl, fun _ => rfl⟩
    · obtain rfl := Host.Outcome.next.inj ((exec_rewriteAll_of_ne_zero x h0).symm.trans h)
      exact ⟨rfl, fun a ha => read_rewriteFrames_outside _ _ fun k hk => ha k (List.mem_range.mp hk),
        fun herr => absurd rfl herr⟩

/-! REWRITE.ALL as a run of REWRITE.ID commands (spec/41_encoder.md R86). -/

/-- REWRITE.ID k, x after what came before, if that has a next state. -/
def thenRewriteId (x : Byte) (r : Result) (k : Nat) : Result :=
  match r with
  | .next t => exec (.rewriteId k x) t
  | .fault e => .fault e
  | .refused e => .refused e

/-- REWRITE.ID commands that name frames of OUT_BUF add up, from a state whose STATUS says success. -/
theorem foldl_thenRewriteId (x : Byte) (ks : List Nat) (s : State)
    (hks : ∀ k ∈ ks, k < s.encResult.frameCount.toNat) :
    ks.foldl (thenRewriteId x) (.next (s.setStatus ⟨.ok, .none⟩)) =
      .next ((s.setOutBuf (ks.foldl (rewriteFrame s.cfg x) s.outBuf)).setStatus ⟨.ok, .none⟩) := by
  induction ks generalizing s with
  | nil => rfl
  | cons k ks ih =>
    obtain ⟨hk, hks⟩ := List.forall_mem_cons.mp hks
    have hfirst : thenRewriteId x (.next (s.setStatus ⟨.ok, .none⟩)) k =
        .next ((s.setOutBuf (rewriteFrame s.cfg x s.outBuf k)).setStatus ⟨.ok, .none⟩) :=
      exec_rewriteId_of_lt x hk
    rw [List.foldl_cons, hfirst]
    exact ih (s.setOutBuf (rewriteFrame s.cfg x s.outBuf k)) hks

/-- The first of several REWRITE.ID commands does not see the STATUS before it. -/
theorem foldl_thenRewriteId_of_ne_nil {x : Byte} {ks : List Nat} {s : State} (hne : ks ≠ [])
    (hks : ∀ k ∈ ks, k < s.encResult.frameCount.toNat) :
    ks.foldl (thenRewriteId x) (.next s) =
      .next ((s.setOutBuf (ks.foldl (rewriteFrame s.cfg x) s.outBuf)).setStatus ⟨.ok, .none⟩) := by
  rw [← foldl_thenRewriteId x ks s hks]
  cases ks with
  | nil => exact absurd rfl hne
  | cons k ks =>
    have hk := hks k List.mem_cons_self
    exact congrArg (ks.foldl (thenRewriteId x)) ((exec_rewriteId_of_lt x hk).trans
      (exec_rewriteId_of_lt (s := s.setStatus ⟨.ok, .none⟩) x hk).symm)

/-- Settles O38: every word of the row is REWRITE.ALL of its IMM8, and the REWRITE.ID commands add up to it. -/
theorem rewriteAllIsRepeatedRewriteId : Obligations.RewriteAllIsRepeatedRewriteId := by
  refine ⟨fun w hw => decode_of_rowMatch hw (imm8Field_eq_ofNat w),
    fun s x => ⟨exec_rewriteAll_of_zero x, fun h0 => ⟨⟨_, exec_rewriteAll_of_ne_zero x h0, rfl⟩, ?_⟩⟩⟩
  have hne : List.range s.encResult.frameCount.toNat ≠ [] :=
    mt List.range_eq_nil.mp fun hn => h0 (BitVec.eq_of_toNat_eq hn)
  exact (exec_rewriteAll_of_ne_zero x h0).trans
    (foldl_thenRewriteId_of_ne_nil hne fun k hk => List.mem_range.mp hk).symm

/-- Settles O39: REWRITE.ALL names every frame. -/
theorem rewriteAllRenamesEveryFrame : Obligations.RewriteAllRenamesEveryFrame := by
  intro s x h h0
  refine ⟨_, exec_rewriteAll_of_ne_zero x h0, rfl, fun k hk v f old pl _ hf => ?_⟩
  have hframe := frameBytes_rewriteFrames (id := x) (List.range s.encResult.frameCount.toNat) s.outBuf old
    h.memory.outWf (frameOffset_le_outSize h.frames hk) hf
  rwa [if_pos (List.mem_range.mpr hk)] at hframe

end Sys2Proof.Machine
end

section
/-! PROOFS. DEC of a wire frame (spec/42_decoder.md R88, R91, R98), and so of a rewritten one (spec/41_encoder.md R87). -/

namespace Sys2Proof.Machine

open Memory

/-- The decoded form of a wire frame. -/
def Frame.ofWire (p : CrcParams) (v : Bit) (f : FrameFlags) (id : Byte) (pl : List Byte) : Frame :=
  { version := v, flags := f, id := id, length := BitVec.ofNat 8 pl.length, payload := pl,
    received := checksum p (frameHead v f id pl), computed := checksum p (frameHead v f id pl) }

/-- A wire frame of at most M bytes with valid flags passes every check. -/
theorem decodeFrame_of_wireFrame {c : Config} {m : Memory} {v : Bit} {f : FrameFlags} {id : Byte} {pl : List Byte}
    (hl : c.legal = true) (hpl : pl.length ≤ c.maxPayload) (hf : flagsValid f = true)
    (hload : load m 0 (5 + pl.length) = wireFrame c.crc v f id pl) :
    decodeFrame c (5 + pl.length) m = .ok (.ofWire c.crc v f id pl) := by
  obtain ⟨-, hM, -⟩ := c.legal_iff.mp hl
  have hlen : (BitVec.ofNat 8 pl.length).toNat = pl.length := Nat.mod_eq_of_lt (by omega)
  rw [show 5 + pl.length = 3 + pl.length + 2 by omega, load_add] at hload
  obtain ⟨hhead, hsum⟩ := List.append_inj hload (by simp)
  simp only [load_succ, load_zero, checksumBytes, List.cons.injEq, Nat.zero_add] at hsum
  obtain ⟨hlow, hhigh, -⟩ := hsum
  have hparts := hhead
  rw [show 3 + pl.length = pl.length + 1 + 1 + 1 by omega, load_succ, load_succ, load_succ, frameHead] at hparts
  simp only [List.cons.injEq, Nat.zero_add, Nat.reduceAdd] at hparts
  obtain ⟨h0, h1, h2, hpayload⟩ := hparts
  rw [decodeFrame, if_neg (by omega), show 5 + pl.length - 2 = 3 + pl.length by omega,
    show 5 + pl.length - 1 = 3 + pl.length + 1 by omega]
  simp [hlow, hhigh, hhead, h0, h1, h2, hlen, hpayload, not_lt.mpr hpl, hf, Frame.ofWire,
    show 5 + pl.length = pl.length + 5 from Nat.add_comm ..]

/-- DEC of a wire frame that the host has loaded holds the frame's parts. -/
theorem exec_dec_of_wireFrame {u : State} {v : Bit} {f : FrameFlags} {id : Byte} {pl : List Byte}
    (hl : u.cfg.legal = true) (hpl : pl.length ≤ u.cfg.maxPayload) (hf : flagsValid f = true)
    (hin : HoldsInput u (wireFrame u.cfg.crc v f id pl)) :
    exec .dec u = .next
      ((holdFrame (.ofWire u.cfg.crc v f id pl) (clearDecoded u)).setStatus ⟨.ok, .none⟩) := by
  obtain ⟨-, -, -, -, -, hsize, -⟩ := u.cfg.legal_iff.mp hl
  obtain ⟨hlen, hload⟩ := hin
  rw [length_wireFrame] at hlen hload
  have hfits : inputFits u = true := decide_eq_true (show u.len.toNat ≤ _ by omega)
  have hdec : decodeFrame u.cfg (inputLen u) u.inBuf = .ok (.ofWire u.cfg.crc v f id pl) := by
    rw [show inputLen u = 5 + pl.length from hlen]
    exact decodeFrame_of_wireFrame hl hpl hf hload
  simp [exec, execDec, hfits, hdec, finish]

/-- The payload of a held frame is in DEC_BUF. -/
theorem read_decBuf_holdFrame {fr : Frame} {u : State} {a : Nat} (hw : u.decBuf.wf)
    (hsize : fr.payload.length ≤ u.cfg.maxPayload) (ha : a < fr.payload.length) :
    (holdFrame fr u).decBuf.read a = fr.payload[a] := by
  have hsize' : 0 + a < u.cfg.decSize := by rw [Config.decSize]; omega
  have hread := read_storeBytes_inside fr.payload u.decBuf 0 a ha hw hsize'
  rwa [Nat.zero_add] at hread

/-- A rewrite that names frame k makes a good frame the same frame with the new id. -/
theorem exec_rewrite_frame {s : State} {k : Nat} {x : Byte} {i : Instr} (h : Inv s)
    (hk : k < s.encResult.frameCount.toNat) (hi : i = .rewriteId k x ∨ i = .rewriteAll x) :
    ∃ t, exec i s = .next t ∧ ∃ v f old pl, pl.length ≤ s.cfg.maxPayload ∧ flagsValid f = true ∧
      frameBytes s.outBuf k = wireFrame s.cfg.crc v f old pl ∧
      frameBytes t.outBuf k = wireFrame s.cfg.crc v f x pl := by
  obtain ⟨v, f, old, pl, hpl, hvalid, hf⟩ := h.frames.frames k hk
  obtain rfl | rfl := hi
  · exact ⟨_, exec_rewriteId_of_lt x hk, v, f, old, pl, hpl, hvalid, hf,
      frameBytes_rewriteFrame_self h.memory.outWf (frameOffset_le_outSize h.frames hk) hf⟩
  · have h0 : s.encResult.frameCount ≠ 0#8 := fun h0 => by simp [h0] at hk
    obtain ⟨t, ht, -, hframes⟩ := rewriteAllRenamesEveryFrame s x h h0
    exact ⟨t, ht, v, f, old, pl, hpl, hvalid, hf, hframes k hk v f old pl hpl hf⟩

/-- Settles O41: both frames are wire frames with the same parts but for the id, and DEC gives the parts back. -/
theorem rewrittenFrameDecodesWithTheNewId : Obligations.RewrittenFrameDecodesWithTheNewId := by
  intro s k x i h hk hi
  obtain ⟨t, ht, v, f, old, pl, hpl, hvalid, hbefore, hafter⟩ := exec_rewrite_frame h hk hi
  refine ⟨t, ht, fun u u' hu hu' hin hin' => ?_⟩
  rw [hbefore, ← hu] at hin
  rw [hafter, ← hu'] at hin'
  refine ⟨_, _, exec_dec_of_wireFrame (hu ▸ h.legal) (hu ▸ hpl) hvalid hin,
    exec_dec_of_wireFrame (hu' ▸ h.legal) (hu' ▸ hpl) hvalid hin', rfl, rfl, rfl, fun hw hw' a ha => ?_⟩
  have ha' : a < pl.length := Nat.lt_of_lt_of_le ha (Nat.mod_le _ _)
  exact (read_decBuf_holdFrame hw' (hu' ▸ hpl) ha').trans (read_decBuf_holdFrame hw (hu ▸ hpl) ha').symm

end Sys2Proof.Machine
end

section
/-! PROOFS. DEC (spec/42_decoder.md R88 to R101): each outcome from the conditions that lead to it, the raw frames it accepts,
what it leaves unchanged, and the round trip of what ENC makes. -/

namespace Sys2Proof.Machine

open Memory

/-! How DEC ends. -/

section
variable {s : State}

theorem exec_dec_of_inSize_lt (hn : s.cfg.inSize < inputLen s) :
    exec .dec s = .next ((clearDecoded s).setStatus ⟨.invalidArgument, .none⟩) := by
  have hfits : inputFits s = false := decide_eq_false (not_le.mpr hn)
  simp [exec, execDec, hfits, raise]

theorem exec_dec_of_error {r : FrameReason} (hn : inputLen s ≤ s.cfg.inSize)
    (hdec : decodeFrame s.cfg (inputLen s) s.inBuf = .error r) :
    exec .dec s = .next ((clearDecoded s).setStatus ⟨.malformedFrame, r⟩) := by
  have hfits : inputFits s = true := decide_eq_true hn
  simp [exec, execDec, hfits, hdec, raise]

theorem exec_dec_of_ok {fr : Frame} (hn : inputLen s ≤ s.cfg.inSize)
    (hdec : decodeFrame s.cfg (inputLen s) s.inBuf = .ok fr) :
    exec .dec s = .next ((holdFrame fr (clearDecoded s)).setStatus ⟨.ok, .none⟩) := by
  have hfits : inputFits s = true := decide_eq_true hn
  simp [exec, execDec, hfits, hdec, finish]

/-- DEC leaves every other field as it was. -/
theorem exec_dec_frame {t : State} (h : exec .dec s = .next t) :
    t = { s with status := t.status, decHdr := t.decHdr, decCrc := t.decCrc, decBuf := t.decBuf } := by
  obtain ⟨m, r, c, st, rfl, -⟩ := execDec_writes h
  rfl

/-- A DEC without an error has decoded a frame. -/
theorem decodeFrame_ok_of_exec_dec {t : State} (h : exec .dec s = .next t) (hok : t.status.err = .ok) :
    inputLen s ≤ s.cfg.inSize ∧ ∃ fr, decodeFrame s.cfg (inputLen s) s.inBuf = .ok fr := by
  obtain ⟨-, rfl⟩ | ⟨-, r, -, rfl⟩ | ⟨hn, fr, hdec, -⟩ := execDec_cases h
  · cases hok
  · cases hok
  · exact ⟨hn, fr, hdec⟩

end

/-! The first failing check (spec/42_decoder.md R91), each from the conditions in numbers that lead to it. -/

theorem halfOfBytes_eq_iff (lo hi : Byte) (v : Half) : halfOfBytes lo hi = v ↔ lo.toNat + 256 * hi.toNat = v.toNat := by
  rw [← BitVec.toNat_inj, toNat_halfOfBytes]

/-- The received checksum of a raw frame of n bytes is the computed one. -/
def ChecksumAgrees (c : Config) (n : Nat) (m : Memory) : Prop :=
  halfOfBytes (m.read (n - 2)) (m.read (n - 1)) = checksum c.crc (m.load 0 (n - 2))

theorem checksumAgrees_iff {c : Config} {n : Nat} {m : Memory} : ChecksumAgrees c n m ↔
    (m.read (n - 2)).toNat + 256 * (m.read (n - 1)).toNat = (checksum c.crc (m.load 0 (n - 2))).toNat :=
  halfOfBytes_eq_iff _ _ _

/-- The parts of a raw frame of n bytes, as DEC reads them when every check passes (spec/42_decoder.md R98). -/
def Frame.ofRaw (c : Config) (n : Nat) (m : Memory) : Frame :=
  { version := byteVersion (m.read 0), flags := byteFlags (m.read 0), id := m.read 1, length := m.read 2,
    payload := m.load 3 (m.read 2).toNat, received := halfOfBytes (m.read (n - 2)) (m.read (n - 1)),
    computed := checksum c.crc (m.load 0 (n - 2)) }

section
variable {c : Config} {n : Nat} {m : Memory}

theorem decodeFrame_of_short (h5 : n < 5) : decodeFrame c n m = .error .truncated :=
  if_pos h5

theorem decodeFrame_of_not_checksumAgrees (h5 : 5 ≤ n) (hcrc : ¬ ChecksumAgrees c n m) :
    decodeFrame c n m = .error .checksumMismatch :=
  (if_neg (not_lt.mpr h5)).trans (if_pos hcrc)

theorem decodeFrame_of_oversize (h5 : 5 ≤ n) (hcrc : ChecksumAgrees c n m) (hsize : c.maxPayload < (m.read 2).toNat) :
    decodeFrame c n m = .error .oversize :=
  (if_neg (not_lt.mpr h5)).trans ((if_neg (not_not.mpr hcrc)).trans (if_pos hsize))

theorem decodeFrame_of_lengthMismatch (h5 : 5 ≤ n) (hcrc : ChecksumAgrees c n m)
    (hsize : (m.read 2).toNat ≤ c.maxPayload) (hlen : n ≠ (m.read 2).toNat + 5) :
    decodeFrame c n m = .error .lengthMismatch :=
  (if_neg (not_lt.mpr h5)).trans ((if_neg (not_not.mpr hcrc)).trans
    ((if_neg (not_lt.mpr hsize)).trans (if_pos hlen)))

/-- Past the check of the length, the flags decide. -/
theorem decodeFrame_of_length (h5 : 5 ≤ n) (hcrc : ChecksumAgrees c n m)
    (hsize : (m.read 2).toNat ≤ c.maxPayload) (hlen : n = (m.read 2).toNat + 5) :
    decodeFrame c n m =
      if !flagsValid (byteFlags (m.read 0)) then .error .invalidFlags else .ok (.ofRaw c n m) :=
  (if_neg (not_lt.mpr h5)).trans ((if_neg (not_not.mpr hcrc)).trans
    ((if_neg (not_lt.mpr hsize)).trans (if_neg (not_not.mpr hlen))))

end

/-- Settles O43, check by check; the reasons that DEC can report have InvalidVersion not among them. -/
theorem decReportsTheFirstFailingCheck : Obligations.DecReportsTheFirstFailingCheck := by
  intro s n rx cc len b0 failed
  refine ⟨exec_dec_of_inSize_lt, fun hn h5 => exec_dec_of_error hn (decodeFrame_of_short h5),
    fun hn h5 hcrc => exec_dec_of_error hn (decodeFrame_of_not_checksumAgrees h5 (mt checksumAgrees_iff.mp hcrc)),
    fun hn h5 hcrc hsize => exec_dec_of_error hn (decodeFrame_of_oversize h5 (checksumAgrees_iff.mpr hcrc) hsize),
    fun hn h5 hcrc hsize hlen =>
      exec_dec_of_error hn (decodeFrame_of_lengthMismatch h5 (checksumAgrees_iff.mpr hcrc) hsize hlen),
    fun hn h5 hcrc hsize hlen hflags => exec_dec_of_error hn ?_, fun t h => ?_⟩
  · have hinvalid := (flagsValid_byteFlags_eq_false_iff (s.inBuf.read 0)).mpr hflags
    exact (decodeFrame_of_length h5 (checksumAgrees_iff.mpr hcrc) hsize hlen).trans (if_pos (by rw [hinvalid]; rfl))
  · obtain ⟨-, -, hstatus, -⟩ := statusAfterEveryCommand
    exact (hstatus .dec s t h).1.noInvalidVersion

/-! The frame that passes every check (spec/42_decoder.md R98). -/

theorem toNat_byteFlags (b : Byte) : (byteFlags b).toNat = b.toNat % 128 := by
  simp [byteFlags]

theorem toNat_byteVersion (b : Byte) : (byteVersion b).toNat = b.toNat / 128 := by
  simp [byteVersion, Nat.shiftRight_eq_div_pow]
  omega

/-- DEC_BUF above the payload of a held frame is as before. -/
theorem read_decBuf_holdFrame_of_le {fr : Frame} {u : State} {a : Nat} (ha : fr.payload.length ≤ a) :
    (holdFrame fr u).decBuf.read a = u.decBuf.read a :=
  read_storeBytes_outside _ _ _ (.inr (by rwa [Nat.zero_add]))

/-- Settles O44: the frame that is held consists of the bytes it is read from. -/
theorem decHoldsTheDecodedFrame : Obligations.DecHoldsTheDecodedFrame := by
  intro s n rx cc len b0 hn h5 hcrc hsize hlen hrsv h0 h7 hw
  have hagree : ChecksumAgrees s.cfg n s.inBuf := checksumAgrees_iff.mpr hcrc
  have hvalid : flagsValid (byteFlags (s.inBuf.read 0)) = true := by
    rw [← Bool.not_eq_false, flagsValid_byteFlags_eq_false_iff]
    omega
  have hdec := (decodeFrame_of_length h5 hagree hsize hlen).trans (if_neg (by rw [hvalid]; decide))
  have hexec := exec_dec_of_ok hn hdec
  refine ⟨_, hexec, exec_dec_frame hexec, toNat_byteFlags _, toNat_byteVersion _, rfl, rfl, rfl, toNat_halfOfBytes _ _,
    rfl, hagree, fun i hi => ?_, fun i hi => read_decBuf_holdFrame_of_le (by rwa [Frame.ofRaw, length_load])⟩
  have hread := read_decBuf_holdFrame (fr := .ofRaw s.cfg n s.inBuf) (u := clearDecoded s) (a := i) hw
    (by rwa [Frame.ofRaw, length_load]) (by rwa [Frame.ofRaw, length_load])
  exact hread.trans (getElem_load _ _ _ _ _)

/-! What DEC leaves unchanged (spec/42_decoder.md R89). -/

/-- The payload of a decoded frame is as long as its length byte says. -/
theorem length_payload_of_decodeFrame_ok {c : Config} {n : Nat} {m : Memory} {fr : Frame}
    (h : decodeFrame c n m = .ok fr) : fr.payload.length = fr.length.toNat := by
  obtain ⟨-, -, -, -, -, -, hpl, -⟩ := decodeFrame_ok h
  rw [hpl, length_load]

/-- Settles O45 by the three ways DEC can end: the errors store nothing, and a success stores its payload alone. -/
theorem decFrame : Obligations.DecFrame := by
  intro s t h
  refine ⟨exec_dec_frame h, ?_⟩
  obtain ⟨-, rfl⟩ | ⟨-, r, -, rfl⟩ | ⟨-, fr, hdec, rfl⟩ := execDec_cases h
  · exact ⟨fun _ _ => rfl, fun _ => ⟨rfl, rfl, rfl⟩, fun _ => ⟨rfl, rfl, rfl⟩⟩
  · exact ⟨fun _ _ => rfl, fun _ => ⟨rfl, rfl, rfl⟩, fun _ => ⟨rfl, rfl, rfl⟩⟩
  · exact ⟨fun a ha => read_decBuf_holdFrame_of_le ((length_payload_of_decodeFrame_ok hdec).trans_le ha),
      fun herr => absurd rfl herr, fun _ => by simp⟩

/-! What DEC depends on (spec/42_decoder.md R88). -/

/-- Settles O46: the raw frames decode alike, and so DEC ends alike. -/
theorem decIsAPureFunctionOfItsInput : Obligations.DecIsAPureFunctionOfItsInput := by
  intro s t s' t' hcfg hlen hbytes hws hwt hs ht
  have hn : inputLen s = inputLen t := congrArg BitVec.toNat hlen
  have hdec : decodeFrame s.cfg (inputLen s) s.inBuf = decodeFrame t.cfg (inputLen t) t.inBuf := by
    rw [← hcfg, ← hn]
    exact decodeFrame_congr hbytes
  obtain ⟨hbig, rfl⟩ | ⟨hfits, r, hr, rfl⟩ | ⟨hfits, fr, hfr, rfl⟩ := execDec_cases hs
  · rw [hcfg, hn] at hbig
    obtain rfl := Host.Outcome.next.inj ((exec_dec_of_inSize_lt hbig).symm.trans ht)
    exact ⟨rfl, rfl, rfl, fun i hi => absurd hi (Nat.not_lt_zero i)⟩
  · rw [hcfg, hn] at hfits
    obtain rfl := Host.Outcome.next.inj ((exec_dec_of_error hfits (hdec.symm.trans hr)).symm.trans ht)
    exact ⟨rfl, rfl, rfl, fun i hi => absurd hi (Nat.not_lt_zero i)⟩
  · have hpl := length_payload_of_decodeFrame_ok hfr
    obtain ⟨-, hsize, -⟩ := decodeFrame_ok hfr
    rw [← hpl] at hsize
    rw [hcfg, hn] at hfits
    obtain rfl := Host.Outcome.next.inj ((exec_dec_of_ok hfits (hdec.symm.trans hfr)).symm.trans ht)
    refine ⟨rfl, rfl, rfl, fun i hi => ?_⟩
    have hi' : i < fr.payload.length := hi.trans_eq hpl.symm
    exact (read_decBuf_holdFrame hws hsize hi').trans (read_decBuf_holdFrame hwt (hcfg ▸ hsize) hi').symm

/-! The raw frames that DEC accepts (spec/42_decoder.md R90, spec/41_encoder.md R78). -/

/-- A raw frame is its three header bytes, its payload and its two checksum bytes. -/
theorem load_add_five (m : Memory) (len : Nat) : load m 0 (len + 5) =
    (read m 0 :: read m 1 :: read m 2 :: load m 3 len) ++ [read m (len + 5 - 2), read m (len + 5 - 1)] := by
  rw [show len + 5 = 3 + len + 2 by omega, load_add, load_add]
  simp [load_succ]

/-- A raw frame that decodes is the wire frame of its parts. -/
theorem load_of_decodeFrame_ok {c : Config} {n : Nat} {m : Memory} {fr : Frame} (h : decodeFrame c n m = .ok fr) :
    load m 0 n = wireFrame c.crc fr.version fr.flags fr.id fr.payload := by
  have hpl := length_payload_of_decodeFrame_ok h
  obtain ⟨rfl, -, -, hlen, hid, hhead, hpayload, hrx, hbytes, hcc⟩ := decodeFrame_ok h
  have hparts : frameHead fr.version fr.flags fr.id fr.payload =
      read m 0 :: read m 1 :: read m 2 :: load m 3 fr.length.toNat := by
    rw [frameHead, hhead, hid, hpl, BitVec.ofNat_toNat, BitVec.setWidth_eq, ← hlen, hpayload]
  rw [load_add_five, wireFrame, checksumBytes, ← hcc, ← hrx, hbytes, lowByte_halfOfBytes, highByte_halfOfBytes, hparts]

theorem wireFrameOk_of_decodeFrame_ok {c : Config} {n : Nat} {m : Memory} {fr : Frame} (h : decodeFrame c n m = .ok fr) :
    WireFrameOk c (load m 0 n) := by
  have hpl := length_payload_of_decodeFrame_ok h
  obtain ⟨-, hsize, hvalid, -⟩ := decodeFrame_ok h
  exact ⟨_, _, _, _, hpl.trans_le hsize, hvalid, load_of_decodeFrame_ok h⟩

/-- Settles O47: what decodes is the wire frame of its parts, and a wire frame passes every check. -/
theorem decAcceptsExactlyTheWireFrames : Obligations.DecAcceptsExactlyTheWireFrames := by
  intro s t hl h
  refine ⟨fun hok => ?_, fun ⟨_, v, f, id, pl, hpl, hvalid, hbytes⟩ => ?_⟩
  · obtain ⟨hn, fr, hdec⟩ := decodeFrame_ok_of_exec_dec h hok
    exact ⟨hn, wireFrameOk_of_decodeFrame_ok hdec⟩
  · have hin : HoldsInput s (wireFrame s.cfg.crc v f id pl) := by
      have hlen := congrArg List.length hbytes
      rw [length_load] at hlen
      exact ⟨hlen, hlen ▸ hbytes⟩
    obtain rfl := Host.Outcome.next.inj ((exec_dec_of_wireFrame hl hpl hvalid hin).symm.trans h)
    rfl

/-! One changed byte (spec/42_decoder.md R100). -/

section
variable {c : Config} {n i k : Nat} {m : Memory} {b : Byte}

/-- A run of bytes around its byte i. -/
theorem load_split_at (m : Memory) (hi : i < k) :
    load m 0 k = load m 0 i ++ read m i :: load m (i + 1) (k - (i + 1)) := by
  conv_lhs => rw [show k = i + (k - (i + 1) + 1) by omega, load_add, Nat.zero_add, load_succ]

theorem load_write_of_le (hi : k ≤ i) : load (m.write i b) 0 k = load m 0 k :=
  load_congr fun j hj => read_write_ne m b (by omega)

theorem load_write_of_lt (hm : m.wf) (hi : i < k) :
    load (m.write i b) 0 k = load m 0 i ++ b :: load m (i + 1) (k - (i + 1)) := by
  rw [load_split_at _ hi, load_write_of_le le_rfl, read_write_self m i b hm,
    load_congr (m' := m) fun j hj => read_write_ne m b (by omega)]

/-- The received checksum is told by each of its two bytes. -/
theorem halfOfBytes_inj {lo hi lo' hi' : Byte} : halfOfBytes lo hi = halfOfBytes lo' hi' ↔ lo = lo' ∧ hi = hi' := by
  refine ⟨fun h => ⟨?_, ?_⟩, fun ⟨hlo, hhi⟩ => by rw [hlo, hhi]⟩
  · rw [← lowByte_halfOfBytes lo hi, h, lowByte_halfOfBytes]
  · rw [← highByte_halfOfBytes lo hi, h, highByte_halfOfBytes]

/-- With a generator polynomial that has its constant term, a changed byte is never missed: a changed byte that the checksum
covers gives another computed checksum and the same received one, a changed checksum byte the reverse. -/
theorem not_checksumAgrees_write (hp : c.crc.poly.getLsbD 0 = true) (hm : m.wf) (hagree : ChecksumAgrees c n m)
    (h5 : 5 ≤ n) (hi : i < n) (hne : m.read i ≠ b) : ¬ ChecksumAgrees c n (m.write i b) := by
  unfold ChecksumAgrees at hagree ⊢
  obtain hcovered | hsum := Nat.lt_or_ge i (n - 2)
  · rw [load_write_of_lt hm hcovered, read_write_ne m b (by omega), read_write_ne m b (by omega), hagree,
      load_split_at m hcovered]
    exact checksum_ne_of_byte_ne hp hne _ _
  · rw [load_write_of_le hsum, ← hagree, halfOfBytes_inj, not_and_or]
    obtain rfl | rfl : i = n - 2 ∨ i = n - 1 := by omega
    · exact .inl (by rw [read_write_self _ _ _ hm]; exact hne.symm)
    · exact .inr (by rw [read_write_self _ _ _ hm]; exact hne.symm)

end

/-- A raw frame that decodes has the right checksum. -/
theorem checksumAgrees_of_decodeFrame_ok {c : Config} {n : Nat} {m : Memory} {fr : Frame}
    (h : decodeFrame c n m = .ok fr) : ChecksumAgrees c n m := by
  by_contra hcrc
  obtain ⟨hn, -⟩ := decodeFrame_ok h
  cases h.symm.trans (decodeFrame_of_not_checksumAgrees (by omega) hcrc)

/-- Settles O48: the default polynomial has its constant term, and a flipped bit is a changed byte. -/
theorem decRejectsEverySingleBitFlip : Obligations.DecRejectsEverySingleBitFlip := by
  intro s t i j hcrc hw h hok hi hj
  obtain ⟨hn, fr, hdec⟩ := decodeFrame_ok_of_exec_dec h hok
  obtain ⟨hlen, -⟩ := decodeFrame_ok hdec
  have h5 : 5 ≤ inputLen s := by omega
  have hp : s.cfg.crc.poly.getLsbD 0 = true := by rw [hcrc]; decide
  have hbad := not_checksumAgrees_write hp hw (checksumAgrees_of_decodeFrame_ok hdec) h5 hi
    (ne_xor_one_shiftLeft (s.inBuf.read i) hj)
  exact ⟨_, exec_dec_of_error hn (decodeFrame_of_not_checksumAgrees h5 hbad), rfl⟩

end Sys2Proof.Machine
end

section
/-! PROOFS. Encoded frames decode (spec/42_decoder.md R101): the k-th owed frame is the frame of one chunk, and DEC gives the
chunk's flags and bytes back. -/

namespace Sys2Proof.Machine

open Memory

/-! The flags of the encoder read back as numbers (spec/41_encoder.md R80 to R82). -/

theorem toNat_baseFlags : ∀ (tag : BitVec 3) (ack part : Bool),
    (baseFlags tag ack part).toNat = tag.toNat + 8 * ack.toNat + 16 * part.toNat := by decide

theorem toNat_withPartial_baseFlags : ∀ (tag : BitVec 3) (ack part : Bool),
    (withPartial (baseFlags tag ack part)).toNat = tag.toNat + 8 * ack.toNat + 16 := by decide

theorem toNat_sentinelFlags_baseFlags : ∀ (tag : BitVec 3) (ack part : Bool),
    (sentinelFlags (withPartial (baseFlags tag ack part))).toNat = 3 + 8 * ack.toNat + 16 := by decide

/-! The chunk of each owed frame. -/

/-- The chunk that frame k carries: the whole payload below M bytes, otherwise fragment k or, past the payload, the
sentinel. -/
def owedChunk (c : Config) (len : Nat) (base : FrameFlags) (k : Nat) : Chunk :=
  if len < c.maxPayload then ⟨base, 0, len⟩
  else if k * c.maxPayload < len then fragment c len base k
  else ⟨sentinelFlags (withPartial base), 0, 0⟩

section
variable {c : Config} {len k : Nat} {base : FrameFlags}

theorem size_owedChunk_le : (owedChunk c len base k).size ≤ c.maxPayload := by
  unfold owedChunk
  split_ifs with hone hfragment
  · exact Nat.le_of_lt hone
  · exact Nat.min_le_left _ _
  · exact Nat.zero_le _

theorem flagsValid_owedChunk (hbase : flagsValid base = true) : flagsValid (owedChunk c len base k).flags = true := by
  unfold owedChunk
  split_ifs with hone hfragment
  · exact hbase
  · exact (flagsValid_withPartial base).trans hbase
  · exact flagsValid_sentinelFlags _

theorem owedChunk_of_lt (h : len < c.maxPayload) : owedChunk c len base k = ⟨base, 0, len⟩ :=
  if_pos h

theorem owedChunk_fragment (h : c.maxPayload ≤ len) (hk : k * c.maxPayload < len) :
    owedChunk c len base k = fragment c len base k :=
  (if_neg (not_lt.mpr h)).trans (if_pos hk)

theorem owedChunk_sentinel (h : c.maxPayload ≤ len) (hk : len ≤ k * c.maxPayload) :
    owedChunk c len base k = ⟨sentinelFlags (withPartial base), 0, 0⟩ :=
  (if_neg (not_lt.mpr h)).trans (if_neg (not_lt.mpr hk))

/-- Frame k is a fragment as long as the payload reaches past k*M. -/
theorem lt_fragmentCount_iff (hM : 1 ≤ c.maxPayload) : k < fragmentCount c len ↔ k * c.maxPayload < len := by
  have hiff : fragmentCount c len ≤ k ↔ len ≤ k * c.maxPayload :=
    fragmentCount_le_iff { c with maxFragments := k } hM len
  rw [← not_le, hiff, not_le]

end

section
variable {s : State} {tag : BitVec 3} {ack part : Bool} {k : Nat}

theorem getElem_owedFrames (hM : 1 ≤ s.cfg.maxPayload) (hk : k < (owedFrames s tag ack part).length) :
    (owedFrames s tag ack part)[k] = chunkFrame s (owedChunk s.cfg (inputLen s) (baseFlags tag ack part) k) := by
  obtain hlt | hle := Nat.lt_or_ge (inputLen s) s.cfg.maxPayload
  · simp only [owedFrames_of_lt hlt, List.length_singleton, Nat.lt_one_iff] at hk
    subst hk
    simp [owedFrames_of_lt hlt, owedChunk_of_lt hlt]
  · simp only [owedFrames_of_le hle, List.getElem_map]
    congr 1
    obtain hfragment | hsentinel := Nat.lt_or_ge k (fragmentCount s.cfg (inputLen s))
    · rw [List.getElem_append_left (by simpa using hfragment), List.getElem_map, List.getElem_range,
        owedChunk_fragment hle ((lt_fragmentCount_iff hM).mp hfragment)]
    · rw [List.getElem_append_right (by simpa using hsentinel),
        owedChunk_sentinel hle (not_lt.mp (mt (lt_fragmentCount_iff hM).mpr (not_lt.mpr hsentinel)))]
      exact List.mem_singleton.mp (And.right (List.mem_ite_nil_left.mp (List.getElem_mem _)))

theorem frameBytes_encoded (hl : s.cfg.legal = true) (hw : s.outBuf.wf) (h : EncReady s tag)
    (hk : k < (s.encoded (owedFrames s tag ack part)).encResult.frameCount.toNat) :
    frameBytes (s.encoded (owedFrames s tag ack part)).outBuf k =
      chunkFrame s (owedChunk s.cfg (inputLen s) (baseFlags tag ack part) k) := by
  obtain ⟨hM, -⟩ := s.cfg.legal_iff.mp hl
  rw [toNat_frameCount_encoded ack part hl h] at hk
  exact (frameBytes_stored hw _ (selfSized_of_mem_owedFrames ack part hl h)
    (length_flatten_owedFrames_le ack part hl h) k hk).trans (getElem_owedFrames hM hk)

end

/-! DEC of the frame of a chunk. -/

/-- DEC of the frame of a chunk gives back the chunk's flags, length and payload bytes, the version and id 0. -/
theorem exec_dec_of_chunkFrame {s u : State} {ch : Chunk} (hl : s.cfg.legal = true) (hu : u.cfg = s.cfg)
    (hsize : ch.size ≤ s.cfg.maxPayload) (hf : flagsValid ch.flags = true) (hin : HoldsInput u (chunkFrame s ch)) :
    ∃ v, exec .dec u = .next v ∧ v.status.err = .ok ∧ v.decHdr.flags = ch.flags ∧ v.decHdr.version = s.cfgVersion ∧
      v.decHdr.id = 0x00#8 ∧ v.decHdr.length.toNat = ch.size ∧
      (u.decBuf.wf → v.decBuf.load 0 ch.size = s.inBuf.load ch.start ch.size) := by
  obtain ⟨-, hM, -⟩ := s.cfg.legal_iff.mp hl
  have hpl : (s.inBuf.load ch.start ch.size).length ≤ u.cfg.maxPayload := by rwa [length_load, hu]
  rw [chunkFrame, ← hu] at hin
  refine ⟨_, exec_dec_of_wireFrame (hu ▸ hl) hpl hf hin, rfl, rfl, rfl, rfl, ?_, fun hw => ?_⟩
  · have hlen : (BitVec.ofNat 8 ch.size).toNat = ch.size := Nat.mod_eq_of_lt (by omega)
    simp only [Frame.ofWire, State.setStatus_decHdr, holdFrame_decHdr, length_load, hlen]
  · have hback := load_storeBytes_self (i := 0) (size := u.cfg.decSize) (bs := s.inBuf.load ch.start ch.size) hw
      (by rwa [Nat.zero_add])
    rwa [length_load] at hback

/-- Settles O49: each owed frame is the frame of its chunk, which DEC gives back. -/
theorem encodedFramesDecode : Obligations.EncodedFramesDecode := by
  intro s tag ack part hinv h
  have hvalid : flagsValid (baseFlags tag ack part) = true := flagsValid_baseFlags h.tagNamed ack part
  have hdec {k : Nat} {u : State} (hk : k < (s.encoded (owedFrames s tag ack part)).encResult.frameCount.toNat)
      (hu : u.cfg = s.cfg) (hin : HoldsInput u (frameBytes (s.encoded (owedFrames s tag ack part)).outBuf k)) :=
    exec_dec_of_chunkFrame hinv.legal hu size_owedChunk_le (flagsValid_owedChunk hvalid)
      (frameBytes_encoded hinv.legal hinv.memory.outWf h hk ▸ hin)
  refine ⟨_, exec_enc_of_ready ack part hinv.legal h, rfl, fun hlt u hu hw hin => ?_, fun k hk u hu hin => ?_⟩
  · have hcount : 0 < (s.encoded (owedFrames s tag ack part)).encResult.frameCount.toNat := by
      rw [toNat_frameCount_encoded ack part hinv.legal h, owedFrames_of_lt hlt]
      exact Nat.one_pos
    obtain ⟨v, hv, hok, hflags, hversion, hid, hlen, hpayload⟩ := hdec hcount hu hin
    obtain ⟨hbytes, -⟩ := hin
    rw [frameBytes_encoded hinv.legal hinv.memory.outWf h hcount, length_chunkFrame, Nat.add_comm] at hbytes
    rw [owedChunk_of_lt (len := inputLen s) hlt] at hbytes hflags hlen hpayload
    exact ⟨hbytes, v, hv, hok, by rw [hflags, toNat_baseFlags], hversion, hid, hlen, hpayload hw⟩
  · obtain ⟨v, hv, hok, hflags, hversion, hid, hlen, hpayload⟩ := hdec hk hu hin
    refine ⟨v, hv, hok, hversion, hid, fun hle => ?_⟩
    obtain hfragment | hsentinel := Nat.lt_or_ge (k * s.cfg.maxPayload) s.len.toNat
    · rw [owedChunk_fragment (len := inputLen s) hle hfragment] at hflags hlen hpayload
      refine ⟨?_, fun _ => ⟨?_, hlen, hpayload⟩, fun hge => absurd hfragment (not_lt.mpr hge)⟩
      · rw [hflags]
        exact flagsPartial_withPartial _
      · rw [hflags]
        exact toNat_withPartial_baseFlags _ _ _
    · rw [owedChunk_sentinel (len := inputLen s) hle hsentinel] at hflags hlen
      refine ⟨?_, fun hlt => absurd hlt (not_lt.mpr hsentinel), fun _ => ⟨?_, hlen⟩⟩
      · rw [hflags, flagsPartial_sentinelFlags, flagsPartial_withPartial]
      · rw [hflags, toNat_sentinelFlags_baseFlags]

end Sys2Proof.Machine
end

section
/-! PROOFS. The accumulator (spec/43_reassembly.md R103 to R110): what REASM.RESET and each transition of REASM.ACCEPT
make of the state, what a message that ended keeps, which parts of a frame the accumulator looks at, and what REASM.ACCEPT
leaves unchanged. -/

namespace Sys2Proof.Machine

open Memory

/-! How the two commands end. -/

theorem exec_reasmReset (s : State) :
    exec .reasmReset s = .next (((s.setReasm .zero).setAccLen 0#16).setStatus ⟨.ok, .none⟩) := rfl

theorem exec_reasmAccept (s : State) : exec .reasmAccept s =
    .next ((acceptFrame s.decHdr.valid (consumeDecoded s)).setStatus ⟨.ok, .none⟩) := rfl

/-- What REASM.ACCEPT writes: STATUS, VALID, REASM_STATUS, REASM_LEN and REASM_BUF (spec/43_reassembly.md R105). -/
theorem exec_reasmAccept_frame {s t : State} {r : ReasmReg} {st : StatusReg} (h : exec .reasmAccept s = .next t)
    (hr : t.reasm = r) (hst : t.status = st) : t = { s with
      decHdr := { s.decHdr with valid := false }, reasm := r, accLen := t.accLen, reasmBuf := t.reasmBuf
      status := st } := by
  subst hr hst
  obtain ⟨r, n, m, st, rfl⟩ := execReasmAccept_writes h
  rfl

/-- Settles O50: every word of the row is REASM.RESET, which has no operand. -/
theorem reasmResetStartsAFreshInstance : Obligations.ReasmResetStartsAFreshInstance :=
  ⟨exec_reasmReset, fun _ hw => decode_of_rowMatch hw trivial⟩

/-! The tag of a flags value in numbers (spec/30_encoding.md R60, R61). -/

theorem toNat_flagsTag (f : FrameFlags) : (flagsTag f).toNat = f.toNat % 8 := by
  simp [flagsTag]

theorem flagsTag_eq_tagFinish_iff (f : FrameFlags) : flagsTag f = tagFinish ↔ f.toNat % 8 = 3 := by
  rw [← toNat_flagsTag, ← BitVec.toNat_inj]
  rfl

theorem flagsTag_eq_iff (f g : FrameFlags) : flagsTag f = flagsTag g ↔ f.toNat % 8 = g.toNat % 8 := by
  rw [← toNat_flagsTag, ← toNat_flagsTag, BitVec.toNat_inj]

/-! The transitions, each from its guard (spec/43_reassembly.md R105 to R109). -/

section
variable {s : State}

theorem acceptFrame_of_terminal (valid : Bool) (hs : s.reasm.state = .complete ∨ s.reasm.state = .failed) :
    acceptFrame valid s = setEvent s .ignoredTerminal := by
  obtain hs | hs := hs <;> simp [acceptFrame, hs]

theorem acceptFrame_of_not_valid (hs : s.reasm.state = .idle ∨ s.reasm.state = .collecting) :
    acceptFrame false s = setEvent s .dropped := by
  obtain hs | hs := hs <;> simp [acceptFrame, hs]

theorem acceptFrame_idle (hs : s.reasm.state = .idle) : acceptFrame true s = acceptIdle s := by
  simp [acceptFrame, hs]

theorem acceptFrame_collecting (hs : s.reasm.state = .collecting) : acceptFrame true s = acceptCollecting s := by
  simp [acceptFrame, hs]

theorem exec_reasmAccept_idle (hs : s.reasm.state = .idle) (hv : s.decHdr.valid = true) :
    exec .reasmAccept s = .next ((acceptIdle (consumeDecoded s)).setStatus ⟨.ok, .none⟩) := by
  rw [exec_reasmAccept, hv, acceptFrame_idle (by exact hs)]

theorem exec_reasmAccept_collecting (hs : s.reasm.state = .collecting) (hv : s.decHdr.valid = true) :
    exec .reasmAccept s = .next ((acceptCollecting (consumeDecoded s)).setStatus ⟨.ok, .none⟩) := by
  rw [exec_reasmAccept, hv, acceptFrame_collecting (by exact hs)]

theorem acceptIdle_of_finish (ht : flagsTag s.decHdr.flags = tagFinish) : acceptIdle s = setEvent s .strayFinish :=
  if_pos ht

/-- The first frame of a message: with PARTIAL it is in progress, without it complete. -/
theorem acceptIdle_of_ne_finish (ht : flagsTag s.decHdr.flags ≠ tagFinish) :
    acceptIdle s = ((s.setReasm
      { state := if flagsPartial s.decHdr.flags then .collecting else .complete
        event := if flagsPartial s.decHdr.flags then .started else .completeSingle
        fragCount := 1#8, firstFlags := s.decHdr.flags }).setAccLen (0#16 + s.decHdr.length.setWidth 16)).setReasmBuf
      (s.reasmBuf.storeBytes s.cfg.reasmSize 0 (s.decBuf.load 0 s.decHdr.length.toNat)) := by
  rw [acceptIdle, if_neg ht]
  cases flagsPartial s.decHdr.flags <;> rfl

theorem acceptCollecting_of_finish_loaded (ht : flagsTag s.decHdr.flags = tagFinish) (hlen : s.decHdr.length ≠ 0#8) :
    acceptCollecting s = setOutcome s .failed .failProtocol :=
  (if_pos ht).trans (if_pos hlen)

theorem acceptCollecting_of_finish_empty (ht : flagsTag s.decHdr.flags = tagFinish) (hlen : s.decHdr.length = 0#8) :
    acceptCollecting s = setOutcome s .complete .completeFin :=
  (if_pos ht).trans (if_neg (not_not.mpr hlen))

theorem acceptCollecting_of_other_tag (ht : flagsTag s.decHdr.flags ≠ tagFinish)
    (hf : flagsTag s.decHdr.flags ≠ flagsTag s.reasm.firstFlags) :
    acceptCollecting s = setOutcome s .failed .failTagMismatch :=
  (if_neg ht).trans (if_pos hf)

theorem acceptCollecting_of_not_partial (ht : flagsTag s.decHdr.flags ≠ tagFinish)
    (hf : flagsTag s.decHdr.flags = flagsTag s.reasm.firstFlags) (hp : flagsPartial s.decHdr.flags = false) :
    acceptCollecting s = setOutcome s .failed .failProtocol :=
  (if_neg ht).trans ((if_neg (not_not.mpr hf)).trans (if_pos (by rw [hp]; rfl)))

theorem acceptCollecting_of_overflow (ht : flagsTag s.decHdr.flags ≠ tagFinish)
    (hf : flagsTag s.decHdr.flags = flagsTag s.reasm.firstFlags) (hp : flagsPartial s.decHdr.flags = true)
    (hcount : s.reasm.fragCount.toNat = s.cfg.maxFragments) :
    acceptCollecting s = setOutcome s .failed .failOverflow :=
  (if_neg ht).trans ((if_neg (not_not.mpr hf)).trans ((if_neg (by rw [hp]; decide)).trans (if_pos hcount)))

theorem acceptCollecting_of_fragment (ht : flagsTag s.decHdr.flags ≠ tagFinish)
    (hf : flagsTag s.decHdr.flags = flagsTag s.reasm.firstFlags) (hp : flagsPartial s.decHdr.flags = true)
    (hcount : s.reasm.fragCount.toNat ≠ s.cfg.maxFragments) :
    acceptCollecting s = ((s.setReasm
      { s.reasm with event := .appended, fragCount := s.reasm.fragCount + 1#8 }).setAccLen
      (s.accLen + s.decHdr.length.setWidth 16)).setReasmBuf
      (s.reasmBuf.storeBytes s.cfg.reasmSize s.accLen.toNat (s.decBuf.load 0 s.decHdr.length.toNat)) :=
  (if_neg ht).trans ((if_neg (not_not.mpr hf)).trans ((if_neg (by rw [hp]; decide)).trans (if_neg hcount)))

end

/-- Settles O53 by the two transitions that change EVENT alone. -/
theorem acceptIgnoredOrDropped : Obligations.AcceptIgnoredOrDropped := by
  refine fun s => ⟨fun hs => ?_, fun hs hv => ?_⟩
  · rw [exec_reasmAccept, acceptFrame_of_terminal _ (by exact hs)]
    rfl
  · rw [exec_reasmAccept, hv, acceptFrame_of_not_valid (by exact hs)]
    rfl

/-! The appended payload (spec/43_reassembly.md R103). -/

/-- A byte of a stored copy of a run is the run's byte. -/
theorem Memory.read_storeBytes_load {size i n k : Nat} {m m' : Memory} (hm : m.wf) (hs : i + n ≤ size) (hk : k < n) :
    (m.storeBytes size i (m'.load 0 n)).read (i + k) = m'.read k := by
  rw [read_storeBytes_inside _ _ _ _ (by rwa [length_load]) hm (by omega), getElem_load, Nat.zero_add]

theorem Memory.read_storeBytes_load_outside {size i n a : Nat} {m m' : Memory} (ha : a < i ∨ i + n ≤ a) :
    (m.storeBytes size i (m'.load 0 n)).read a = m.read a :=
  read_storeBytes_outside _ _ _ (by rwa [length_load])

section
variable {s : State}

theorem length_le_reasmSize (h : Inv s) (hv : s.decHdr.valid = true) : s.decHdr.length.toNat ≤ s.cfg.reasmSize := by
  obtain ⟨-, -, hF, -⟩ := s.cfg.legal_iff.mp h.legal
  exact (h.decoded.of_valid hv).2.trans (Nat.le_mul_of_pos_left _ hF)

/-- REASM_BUF holds one payload more as long as fewer than F are in it. -/
theorem accLen_add_length_le_reasmSize (h : Inv s) (hv : s.decHdr.valid = true)
    (hcount : s.reasm.fragCount.toNat < s.cfg.maxFragments) :
    s.accLen.toNat + s.decHdr.length.toNat ≤ s.cfg.reasmSize :=
  calc s.accLen.toNat + s.decHdr.length.toNat
    _ ≤ s.reasm.fragCount.toNat * s.cfg.maxPayload + s.cfg.maxPayload :=
      Nat.add_le_add h.reasm.accLenLe (h.decoded.of_valid hv).2
    _ = (s.reasm.fragCount.toNat + 1) * s.cfg.maxPayload := (Nat.succ_mul _ _).symm
    _ ≤ s.cfg.reasmSize := Nat.mul_le_mul_right _ hcount

/-- REASM_LEN can hold every length up to REASM_SIZE, which IN_SIZE bounds (spec/00_scope.md R8). -/
theorem toNat_accLen_add_length (hl : s.cfg.legal = true) {n : Half} {len : Byte}
    (h : n.toNat + len.toNat ≤ s.cfg.reasmSize) : (n + len.setWidth 16).toNat = n.toNat + len.toNat := by
  obtain ⟨-, -, -, -, hFM, -, hIn, -⟩ := s.cfg.legal_iff.mp hl
  have hw : (len.setWidth 16).toNat = len.toNat := BitVec.toNat_setWidth_of_le (by decide)
  have hsize : s.cfg.reasmSize = s.cfg.maxFragments * s.cfg.maxPayload := rfl
  rw [BitVec.toNat_add_of_lt (by omega), hw]

end

/-- Settles O51 by the two transitions from Idle; a payload of at most M bytes fits REASM_BUF. -/
theorem acceptFromIdle : Obligations.AcceptFromIdle := by
  intro s h hs hv
  have hexec := exec_reasmAccept_idle hs hv
  have hfinish := flagsTag_eq_tagFinish_iff (consumeDecoded s).decHdr.flags
  have hsize : 0 + s.decHdr.length.toNat ≤ s.cfg.reasmSize := (Nat.zero_add _).trans_le (length_le_reasmSize h hv)
  refine ⟨fun ht => ?_, fun ht => ?_⟩
  · rw [hexec, acceptIdle_of_finish (hfinish.mpr ht)]
    rfl
  · rw [acceptIdle_of_ne_finish (mt hfinish.mp ht)] at hexec
    refine ⟨_, hexec, exec_reasmAccept_frame hexec rfl rfl, ?_, fun i hi => ?_, fun i hi => ?_⟩
    · exact (toNat_accLen_add_length (n := 0#16) h.legal hsize).trans (Nat.zero_add _)
    · have hread := read_storeBytes_load (m' := s.decBuf) h.memory.reasmWf hsize hi
      rwa [Nat.zero_add] at hread
    · exact read_storeBytes_load_outside (.inr ((Nat.zero_add _).trans_le hi))

/-- Settles O52, test by test; below F fragments the payload fits REASM_BUF, and neither FRAG_COUNT nor ACC_LEN wraps. -/
theorem acceptFromCollecting : Obligations.AcceptFromCollecting := by
  intro s h hs hv tag ends
  have hexec := exec_reasmAccept_collecting hs hv
  have hfinish := flagsTag_eq_tagFinish_iff (consumeDecoded s).decHdr.flags
  have hfirst := flagsTag_eq_iff (consumeDecoded s).decHdr.flags (consumeDecoded s).reasm.firstFlags
  rw [hexec]
  refine ⟨fun ht hlen => ?_, fun ht hlen => ?_, fun ht hf => ?_, fun ht hf hp => ?_, fun ht hf hp hcount => ?_,
    fun ht hf hp hcount => ?_⟩
  · rw [acceptCollecting_of_finish_loaded (hfinish.mpr ht) hlen]
    rfl
  · rw [acceptCollecting_of_finish_empty (hfinish.mpr ht) hlen]
    rfl
  · rw [acceptCollecting_of_other_tag (mt hfinish.mp ht) (mt hfirst.mp hf)]
    rfl
  · rw [acceptCollecting_of_not_partial (mt hfinish.mp ht) (hfirst.mpr hf) hp]
    rfl
  · rw [acceptCollecting_of_overflow (mt hfinish.mp ht) (hfirst.mpr hf) hp hcount]
    rfl
  · rw [acceptCollecting_of_fragment (mt hfinish.mp ht) (hfirst.mpr hf) hp hcount.ne] at hexec ⊢
    have hsize := accLen_add_length_le_reasmSize h hv hcount
    obtain ⟨-, -, -, hF, -⟩ := s.cfg.legal_iff.mp h.legal
    refine ⟨_, rfl, exec_reasmAccept_frame hexec rfl rfl, ?_, toNat_accLen_add_length h.legal hsize,
      fun i hi => read_storeBytes_load h.memory.reasmWf hsize hi, fun i hi => read_storeBytes_load_outside hi⟩
    exact BitVec.toNat_add_of_lt (by change s.reasm.fragCount.toNat + 1 < 256; omega)

/-! A message that ended (spec/43_reassembly.md R104, R109). -/

/-- The state, the count, the first flags and the accumulated bytes are those of the earlier state. -/
def KeepsMessage (s t : State) : Prop :=
  t.reasm.state = s.reasm.state ∧ t.reasm.fragCount = s.reasm.fragCount ∧ t.reasm.firstFlags = s.reasm.firstFlags ∧
    t.accLen = s.accLen ∧ t.reasmBuf = s.reasmBuf

section
variable {s t : State}

theorem KeepsMessage.of_eq (hr : t.reasm = s.reasm) (ha : t.accLen = s.accLen) (hb : t.reasmBuf = s.reasmBuf) :
    KeepsMessage s t :=
  ⟨by rw [hr], by rw [hr], by rw [hr], ha, hb⟩

/-- Only the two commands of the accumulator write it, and REASM.ACCEPT ignores its frame. -/
theorem exec_keepsMessage {i : Instr} (hs : s.reasm.state = .complete ∨ s.reasm.state = .failed)
    (hi : i ≠ .reasmReset) (h : exec i s = .next t) : KeepsMessage s t := by
  by_cases haccept : i = .reasmAccept
  · subst haccept
    rw [exec_reasmAccept, acceptFrame_of_terminal _ (by exact hs)] at h
    obtain rfl := Host.Outcome.next.inj h
    exact ⟨rfl, rfl, rfl, rfl, rfl⟩
  · obtain ⟨-, -, -, -, -, -, -, -, -, -, -, -, -, hreasm, hacc, hbuf⟩ := eachRegisterHasOnlyItsWriters i s t h
    exact .of_eq (by_contra fun hne => (hreasm hne).elim hi haccept) (by_contra fun hne => (hacc hne).elim hi haccept)
      (by_contra fun hne => haccept (hbuf hne))

theorem runCommand_keepsMessage {w : Word} (hs : s.reasm.state = .complete ∨ s.reasm.state = .failed)
    (hw : decode w ≠ .ok .reasmReset) (h : runCommand w s = .next t) : KeepsMessage s t := by
  obtain ⟨i, hi, he⟩ | ⟨r, -, rfl⟩ := runCommand_cases h
  · have hne : i ≠ .reasmReset := by
      rintro rfl
      exact hw hi
    exact exec_keepsMessage (s := s.setCmdWord w) hs hne he
  · exact .of_eq rfl rfl rfl

theorem hostEvent_keepsMessage {e : HostEvent} (hs : s.reasm.state = .complete ∨ s.reasm.state = .failed)
    (hw : ∀ w, e = .writeReg 0x00#8 w → decode w ≠ .ok .reasmReset) (hd : ∀ d, e ≠ .reset d)
    (h : hostEvent e s = .next t) : KeepsMessage s t := by
  obtain ⟨off, -, rfl⟩ | ⟨off, v, rfl, hwrite⟩ | ⟨sp, i, -, rfl⟩ | ⟨sp, i, b, -, rfl⟩ | ⟨d, rfl, -⟩ := hostEvent_cases h
  · exact .of_eq rfl rfl rfl
  · obtain ⟨rfl, hrun⟩ | ⟨-, rfl⟩ | ⟨-, rfl⟩ | ⟨-, -, -, rfl⟩ := writeRegister_cases hwrite
    · exact runCommand_keepsMessage hs (hw v rfl) hrun
    · exact .of_eq rfl rfl rfl
    · exact .of_eq rfl rfl rfl
    · exact .of_eq rfl rfl rfl
  · exact .of_eq rfl rfl rfl
  · cases sp <;> exact .of_eq rfl rfl rfl
  · exact absurd rfl (hd d)

end

/-- Settles O54: the event at the front of the list is neither REASM.RESET nor the reset input. -/
theorem terminalStatesAreLeftOnlyByReset : Obligations.TerminalStatesAreLeftOnlyByReset := by
  intro s t hs hstep hw hd
  obtain ⟨-, ⟨-, rfl⟩ | ⟨e, rest, hp, he⟩⟩ := step_cases hstep
  · exact KeepsMessage.of_eq rfl rfl rfl
  · exact hostEvent_keepsMessage (s := s.setPending rest) hs (fun w hew => hw w rest (hew ▸ hp))
      (fun d hed => hd d rest (hed ▸ hp)) he

/-! What of a frame the accumulator looks at (spec/43_reassembly.md R110). -/

/-- The state with another id and another version of the decoded frame. -/
def State.withSender (x : Byte) (v : Bit) (s : State) : State := s.setDecHdr { s.decHdr with id := x, version := v }

section
variable (s : State) (x : Byte) (v : Bit)

theorem withSender_reasm : (s.withSender x v).reasm = s.reasm := rfl

theorem acceptIdle_withSender : acceptIdle (s.withSender x v) = (acceptIdle s).withSender x v := by
  simp only [acceptIdle, apply_ite (State.withSender x v)]
  rfl

theorem acceptCollecting_withSender : acceptCollecting (s.withSender x v) = (acceptCollecting s).withSender x v := by
  simp only [acceptCollecting, apply_ite (State.withSender x v)]
  rfl

theorem acceptFrame_withSender (valid : Bool) :
    acceptFrame valid (s.withSender x v) = (acceptFrame valid s).withSender x v := by
  unfold acceptFrame
  rw [withSender_reasm, acceptIdle_withSender, acceptCollecting_withSender]
  cases s.reasm.state <;> cases valid <;> rfl

end

/-- The state with other flags of the decoded frame. -/
def State.withFlags (f : FrameFlags) (s : State) : State := s.setDecHdr { s.decHdr with flags := f }

/-- Two accumulators in the same state with the same bytes; only the flags of the first frame may differ. -/
def SameMessage (t u : State) : Prop :=
  t.reasm.state = u.reasm.state ∧ t.reasm.event = u.reasm.event ∧ t.reasm.fragCount = u.reasm.fragCount ∧
    t.accLen = u.accLen ∧ t.reasmBuf = u.reasmBuf

section
variable {s : State} {f : FrameFlags}

theorem sameMessage_withFlags (f : FrameFlags) (s : State) : SameMessage (s.withFlags f) s := ⟨rfl, rfl, rfl, rfl, rfl⟩

theorem setEvent_withFlags (e : ReasmEvent) : setEvent (s.withFlags f) e = (setEvent s e).withFlags f := rfl

theorem acceptIdle_withFlags (ht : flagsTag f = flagsTag s.decHdr.flags)
    (hp : flagsPartial f = flagsPartial s.decHdr.flags) : SameMessage (acceptIdle (s.withFlags f)) (acceptIdle s) := by
  by_cases hfinish : flagsTag s.decHdr.flags = tagFinish
  · rw [acceptIdle_of_finish hfinish, acceptIdle_of_finish (s := s.withFlags f) (ht.trans hfinish)]
    exact ⟨rfl, rfl, rfl, rfl, rfl⟩
  · rw [acceptIdle_of_ne_finish hfinish,
      acceptIdle_of_ne_finish (s := s.withFlags f) (fun hf => hfinish (ht.symm.trans hf))]
    exact ⟨by simp [State.withFlags, hp], by simp [State.withFlags, hp], rfl, rfl, rfl⟩

theorem acceptCollecting_withFlags (ht : flagsTag f = flagsTag s.decHdr.flags)
    (hp : flagsPartial f = flagsPartial s.decHdr.flags) :
    acceptCollecting (s.withFlags f) = (acceptCollecting s).withFlags f := by
  simp only [acceptCollecting, apply_ite (State.withFlags f), ← ht, ← hp]
  rfl

/-- The tag and PARTIAL of the flags decide, and nothing else of them. -/
theorem acceptFrame_withFlags (valid : Bool) (ht : flagsTag f = flagsTag s.decHdr.flags)
    (hp : flagsPartial f = flagsPartial s.decHdr.flags) :
    SameMessage (acceptFrame valid (s.withFlags f)) (acceptFrame valid s) := by
  have hstate : (s.withFlags f).reasm.state = s.reasm.state := rfl
  cases hs : s.reasm.state with
  | complete =>
    rw [acceptFrame_of_terminal _ (.inl hs), acceptFrame_of_terminal _ (.inl (hstate.trans hs)), setEvent_withFlags]
    exact sameMessage_withFlags f _
  | failed =>
    rw [acceptFrame_of_terminal _ (.inr hs), acceptFrame_of_terminal _ (.inr (hstate.trans hs)), setEvent_withFlags]
    exact sameMessage_withFlags f _
  | idle =>
    cases valid
    · rw [acceptFrame_of_not_valid (.inl hs), acceptFrame_of_not_valid (.inl (hstate.trans hs)), setEvent_withFlags]
      exact sameMessage_withFlags f _
    · rw [acceptFrame_idle hs, acceptFrame_idle (hstate.trans hs)]
      exact acceptIdle_withFlags ht hp
  | collecting =>
    cases valid
    · rw [acceptFrame_of_not_valid (.inr hs), acceptFrame_of_not_valid (.inr (hstate.trans hs)), setEvent_withFlags]
      exact sameMessage_withFlags f _
    · rw [acceptFrame_collecting hs, acceptFrame_collecting (hstate.trans hs), acceptCollecting_withFlags ht hp]
      exact sameMessage_withFlags f _

end

theorem flagsTag_xor_ack : ∀ f : FrameFlags, flagsTag (f ^^^ 0x08#7) = flagsTag f := by decide

theorem flagsPartial_xor_ack : ∀ f : FrameFlags, flagsPartial (f ^^^ 0x08#7) = flagsPartial f := by decide

/-- Settles O55: the id and the version go through every transition, and the ACK bit is neither in the tag nor PARTIAL. -/
theorem acceptIgnoresIdVersionAndAck : Obligations.AcceptIgnoresIdVersionAndAck := by
  refine ⟨fun s t x v h => ?_, fun s t t' h h' => ?_⟩
  · rw [exec_reasmAccept] at h
    obtain rfl := Host.Outcome.next.inj h
    exact congrArg (fun u => Host.Outcome.next (State.setStatus u ⟨.ok, .none⟩))
      (acceptFrame_withSender (consumeDecoded s) x v s.decHdr.valid)
  · rw [exec_reasmAccept] at h h'
    obtain rfl := Host.Outcome.next.inj h
    obtain rfl := Host.Outcome.next.inj h'
    exact acceptFrame_withFlags (s := consumeDecoded s) s.decHdr.valid (flagsTag_xor_ack _) (flagsPartial_xor_ack _)

/-! What REASM.ACCEPT leaves unchanged. -/

/-- Where REASM.ACCEPT appends: a message starts at 0 (spec/43_reassembly.md R106, R107). -/
def appendBase (s : State) : Nat := if s.reasm.state = .idle then 0 else s.accLen.toNat

/-- A frame changes the state and the event alone, or its payload is appended and the event says so. -/
theorem acceptFrame_appends (valid : Bool) (s : State) :
    (∃ st e, acceptFrame valid s = setOutcome s st e) ∨
    (∃ r n, (r.event = .started ∨ r.event = .appended ∨ r.event = .completeSingle) ∧
      acceptFrame valid s = ((s.setReasm r).setAccLen n).setReasmBuf
        (s.reasmBuf.storeBytes s.cfg.reasmSize (appendBase s) (s.decBuf.load 0 s.decHdr.length.toNat))) := by
  obtain ⟨-, he⟩ | ⟨-, -, he⟩ | ⟨-, -, -, he⟩ | ⟨hs, -, -, he⟩ | ⟨-, -, st, e, -, he⟩ | ⟨hs, -, -, -, -, he⟩ :=
    acceptFrame_cases valid s
  · exact .inl ⟨_, _, he⟩
  · exact .inl ⟨_, _, he⟩
  · exact .inl ⟨_, _, he⟩
  · refine .inr ⟨_, _, ?_, by rw [he, appendBase, if_pos hs]⟩
    cases flagsPartial s.decHdr.flags
    · exact .inr (.inr rfl)
    · exact .inl rfl
  · exact .inl ⟨st, e, he⟩
  · exact .inr ⟨_, _, .inr (.inl rfl), by rw [he, appendBase, if_neg (by rw [hs]; decide)]⟩

theorem exec_reasmAccept_appends {s t : State} (h : exec .reasmAccept s = .next t) :
    (t.reasmBuf = s.reasmBuf ∧ t.accLen = s.accLen ∧ t.reasm.fragCount = s.reasm.fragCount ∧
      t.reasm.firstFlags = s.reasm.firstFlags) ∨
    ((t.reasm.event = .started ∨ t.reasm.event = .appended ∨ t.reasm.event = .completeSingle) ∧
      t.reasmBuf = s.reasmBuf.storeBytes s.cfg.reasmSize (appendBase s) (s.decBuf.load 0 s.decHdr.length.toNat)) := by
  rw [exec_reasmAccept] at h
  obtain ⟨st, e, he⟩ | ⟨r, n, hr, he⟩ := acceptFrame_appends s.decHdr.valid (consumeDecoded s)
  · rw [he] at h
    obtain rfl := Host.Outcome.next.inj h
    exact .inl ⟨rfl, rfl, rfl, rfl⟩
  · rw [he] at h
    obtain rfl := Host.Outcome.next.inj h
    exact .inr ⟨hr, rfl⟩

/-- Settles O56 (the name `acceptFrame` is the model's function) by the two kinds of transitions: those that append the
payload and those that do not. -/
theorem acceptFrame_touches : Obligations.AcceptFrame := by
  intro s t h
  have hframe := exec_reasmAccept_frame h rfl rfl
  have hothers (a : Nat) : t.inBuf.read a = s.inBuf.read a ∧ t.outBuf.read a = s.outBuf.read a ∧
      t.decBuf.read a = s.decBuf.read a := by
    rw [hframe]
    exact ⟨rfl, rfl, rfl⟩
  obtain ⟨hbuf, hkept⟩ | ⟨hevent, hbuf⟩ := exec_reasmAccept_appends h
  · exact ⟨hframe, fun a _ => by rw [hbuf], fun _ _ _ => ⟨hbuf, hkept⟩, hothers⟩
  · refine ⟨hframe, fun a ha => ?_, fun hstarted happended hsingle => ?_, hothers⟩
    · rw [hbuf]
      exact read_storeBytes_load_outside ha
    · obtain hevent | hevent | hevent := hevent
      · exact absurd hevent hstarted
      · exact absurd hevent happended
      · exact absurd hevent hsingle

end Sys2Proof.Machine
end

section
/-! PROOFS. From ENC to the accumulator (spec/43_reassembly.md R111, R112): OUT_BUF holds a message's frames under any
ids, each of them is copied out, decoded and accepted, and the accumulator has after k of them the first k*M bytes of the
payload. -/

namespace Sys2Proof.Machine

open Memory

/-! Host programs, line by line (spec/30_encoding.md R69). -/

section
variable {s t : State}

theorem hostEvent_writeCommand {i : Instr} (hwf : i.wf = true) (s : State) :
    hostEvent (.writeReg 0x00#8 (encode i)) s = exec i (s.setCmdWord (encode i)) := by
  rw [hostEvent, writeRegister_cmd, runCommand_of_decode (decodeOfEncodeIsTheCommand i hwf)]

theorem runLines_cons_of_next {l : HostLine} (h : runEvents (expand s l) s = .next t) (ls : List HostLine) :
    runLines (l :: ls) s = runLines ls t := by
  rw [runLines, h]

/-- Two host programs one after the other. -/
theorem runLines_append {ls : List HostLine} (h : runLines ls s = .next t) (rest : List HostLine) :
    runLines (ls ++ rest) s = runLines rest t := by
  induction ls generalizing s with
  | nil =>
    obtain rfl := Host.Outcome.next.inj h
    rfl
  | cons l ls ih =>
    rw [runLines] at h
    cases hu : runEvents (expand s l) s with
    | next u =>
      rw [hu] at h
      exact (runLines_cons_of_next hu _).trans (ih h)
    | fault r => rw [hu] at h; cases h
    | refused r => rw [hu] at h; cases h

theorem runEvents_keeps_inv {es : List HostEvent} (h : Inv s) (he : runEvents es s = .next t) : Inv t := by
  induction es generalizing s with
  | nil =>
    obtain rfl := Host.Outcome.next.inj he
    exact h
  | cons e es ih =>
    obtain ⟨u, hu⟩ := hostEvent_next e s
    rw [runEvents_cons_of_next hu] at he
    exact ih (hostEvent_keeps_inv h hu) he

/-- DECACC is DEC and then REASM.ACCEPT. -/
theorem runEvents_decAcc {u : State} (hdec : exec .dec (s.setCmdWord (encode .dec)) = .next t)
    (hacc : exec .reasmAccept (t.setCmdWord (encode .reasmAccept)) = .next u) :
    runEvents (expand s .decAcc) s = .next u := by
  rw [expand, writeCommand, writeCommand, List.singleton_append,
    runEvents_cons_of_next ((hostEvent_writeCommand rfl s).trans hdec),
    runEvents_cons_of_next ((hostEvent_writeCommand rfl t).trans hacc)]
  rfl

end

/-! OUT_BUF holds a message (spec/41_encoder.md R79, R83), under any ids. -/

/-- OUT_BUF of `t` holds `n` frames, frame k the k-th chunk of the payload of `s` encoded with the flags `base`; the ids do
not matter. -/
structure HoldsMessage (s : State) (base : FrameFlags) (n : Nat) (t : State) : Prop where
  inv : Inv t
  cfg : t.cfg = s.cfg
  count : t.encResult.frameCount.toNat = n
  frames : ∀ k, k < n → ∃ id, frameBytes t.outBuf k =
    wireFrame s.cfg.crc s.cfgVersion (owedChunk s.cfg (inputLen s) base k).flags id
      (s.inBuf.load (owedChunk s.cfg (inputLen s) base k).start (owedChunk s.cfg (inputLen s) base k).size)

section
variable {s t u : State} {base : FrameFlags} {n : Nat}

theorem HoldsMessage.of_eq (h : HoldsMessage s base n t) (hinv : Inv u) (hc : u.cfg = t.cfg)
    (he : u.encResult = t.encResult) (ho : u.outBuf = t.outBuf) : HoldsMessage s base n u where
  inv := hinv
  cfg := hc.trans h.cfg
  count := (congrArg (fun r : EncResultReg => r.frameCount.toNat) he).trans h.count
  frames := ho ▸ h.frames

theorem HoldsMessage.setCmdWord (h : HoldsMessage s base n t) (w : Word) : HoldsMessage s base n (t.setCmdWord w) :=
  h.of_eq (h.inv.of_inspected rfl) rfl rfl rfl

theorem holdsMessage_encoded {tag : BitVec 3} {ack part : Bool} (h : Inv s) (hr : EncReady s tag) :
    HoldsMessage s (baseFlags tag ack part) (owedFrames s tag ack part).length
      (s.encoded (owedFrames s tag ack part)) where
  inv := exec_keeps_inv h (exec_enc_of_ready ack part h.legal hr)
  cfg := rfl
  count := toNat_frameCount_encoded ack part h.legal hr
  frames _ hk := ⟨0x00#8, frameBytes_encoded h.legal h.memory.outWf hr
    (hk.trans_eq (toNat_frameCount_encoded ack part h.legal hr).symm)⟩

/-- Every rewrite, successful or not, is a run of single rewrites. -/
theorem exec_rewrite_foldl {i : Instr} (hi : (∃ k x, i = .rewriteId k x) ∨ ∃ x, i = .rewriteAll x) (t : State) :
    ∃ m st, exec i t = .next ((t.setOutBuf m).setStatus st) ∧
      ∃ (x : Byte) (ks : List Nat), m = ks.foldl (rewriteFrame t.cfg x) t.outBuf := by
  obtain ⟨k, x, rfl⟩ | ⟨x, rfl⟩ := hi
  · obtain hk | hk := Nat.lt_or_ge k t.encResult.frameCount.toNat
    · exact ⟨_, _, exec_rewriteId_of_lt x hk, x, [k], rfl⟩
    · exact ⟨_, _, exec_rewriteId_of_le x hk, x, [], rfl⟩
  · by_cases h0 : t.encResult.frameCount = 0#8
    · exact ⟨_, _, exec_rewriteAll_of_zero x h0, x, [], rfl⟩
    · exact ⟨_, _, exec_rewriteAll_of_ne_zero x h0, x, _, rfl⟩

/-- A rewrite changes ids alone (spec/41_encoder.md R87). -/
theorem HoldsMessage.exec_rewrite {i : Instr} (h : HoldsMessage s base n t)
    (hi : (∃ k x, i = .rewriteId k x) ∨ ∃ x, i = .rewriteAll x) :
    ∃ u, exec i t = .next u ∧ HoldsMessage s base n u := by
  obtain ⟨m, st, he, x, ks, rfl⟩ := exec_rewrite_foldl hi t
  refine ⟨_, he, exec_keeps_inv h.inv he, h.cfg, h.count, fun k hk => ?_⟩
  obtain ⟨id, hid⟩ := h.frames k hk
  have hsize := frameOffset_le_outSize h.inv.frames (hk.trans_eq h.count.symm)
  rw [← h.cfg] at hid ⊢
  exact ⟨_, frameBytes_rewriteFrames ks t.outBuf id h.inv.memory.outWf hsize hid⟩

theorem HoldsMessage.runLines_rewrites {rs : List Instr} (h : HoldsMessage s base n t)
    (hrs : ∀ i ∈ rs, i.wf = true ∧ ((∃ k x, i = .rewriteId k x) ∨ ∃ x, i = .rewriteAll x)) :
    ∃ u, runLines (rs.map .command) t = .next u ∧ HoldsMessage s base n u := by
  induction rs generalizing t with
  | nil => exact ⟨t, rfl, h⟩
  | cons i rs ih =>
    obtain ⟨⟨hwf, hi⟩, hrest⟩ := List.forall_mem_cons.mp hrs
    obtain ⟨v, hv, hmsg⟩ := (h.setCmdWord (encode i)).exec_rewrite hi
    obtain ⟨u, hu, hmsg'⟩ := ih hmsg hrest
    exact ⟨u, (runLines_command_cons hwf hv _).trans hu, hmsg'⟩

end

/-! One frame: COPYOUT, DEC, REASM.ACCEPT. -/

/-- A state without what COPYOUT and DEC write. -/
def State.outsideDecoding (s : State) : State :=
  { s with
    cmdWord := 0#32, len := 0#16, status := ⟨.ok, .none⟩, decHdr := .zero, decCrc := .zero, inBuf := [], decBuf := []
    response := .none }

theorem exec_dec_outsideDecoding {u v : State} (h : exec .dec u = .next v) : v.outsideDecoding = u.outsideDecoding := by
  obtain ⟨m, r, c, st, rfl, -⟩ := execDec_writes h
  rfl

/-- `v` holds the chunk `ch` of the payload of `s` as a frame decoded since `u`. -/
structure DecodedChunk (s : State) (ch : Chunk) (u v : State) : Prop where
  outside : v.outsideDecoding = u.outsideDecoding
  valid : v.decHdr.valid = true
  flags : v.decHdr.flags = ch.flags
  length : v.decHdr.length.toNat = ch.size
  payload : u.decBuf.wf → v.decBuf.load 0 ch.size = s.inBuf.load ch.start ch.size

section
variable {s u v : State} {ch : Chunk}

theorem DecodedChunk.cfg (h : DecodedChunk s ch u v) : v.cfg = u.cfg := (congrArg State.cfg h.outside :)
theorem DecodedChunk.encResult (h : DecodedChunk s ch u v) : v.encResult = u.encResult :=
  (congrArg State.encResult h.outside :)
theorem DecodedChunk.outBuf (h : DecodedChunk s ch u v) : v.outBuf = u.outBuf := (congrArg State.outBuf h.outside :)
theorem DecodedChunk.reasm (h : DecodedChunk s ch u v) : v.reasm = u.reasm := (congrArg State.reasm h.outside :)
theorem DecodedChunk.accLen (h : DecodedChunk s ch u v) : v.accLen = u.accLen := (congrArg State.accLen h.outside :)
theorem DecodedChunk.reasmBuf (h : DecodedChunk s ch u v) : v.reasmBuf = u.reasmBuf :=
  (congrArg State.reasmBuf h.outside :)

/-- DEC of the frame of a chunk, whatever its id. -/
theorem exec_dec_decodedChunk {id : Byte} (hl : u.cfg.legal = true) (hu : u.cfg = s.cfg)
    (hsize : ch.size ≤ s.cfg.maxPayload) (hf : flagsValid ch.flags = true)
    (hin : HoldsInput u (wireFrame s.cfg.crc s.cfgVersion ch.flags id (s.inBuf.load ch.start ch.size))) :
    ∃ v, exec .dec u = .next v ∧ DecodedChunk s ch u v := by
  obtain ⟨-, hM, -⟩ := u.cfg.legal_iff.mp hl
  rw [← hu] at hsize hin
  have hdec := exec_dec_of_wireFrame hl (by rwa [length_load]) hf hin
  refine ⟨_, hdec, exec_dec_outsideDecoding hdec, ?_, ?_, ?_, fun hw => ?_⟩
  · rw [State.setStatus_decHdr, holdFrame_decHdr]
  · rw [State.setStatus_decHdr, holdFrame_decHdr, Frame.ofWire]
  · have hlen : (BitVec.ofNat 8 ch.size).toNat = ch.size := Nat.mod_eq_of_lt (by omega)
    simp only [Frame.ofWire, State.setStatus_decHdr, holdFrame_decHdr, length_load, hlen]
  · have hback := load_storeBytes_self (i := 0) (size := u.cfg.decSize) (bs := s.inBuf.load ch.start ch.size) hw
      (by rwa [Nat.zero_add, length_load])
    rwa [length_load] at hback

end

/-- The two lines that feed frame k to the accumulator: `v` is what REASM.ACCEPT finds, `w` what it leaves. -/
theorem HoldsMessage.runLines_frame {s u : State} {base : FrameFlags} {n k : Nat} (h : HoldsMessage s base n u)
    (hvalid : flagsValid base = true) (hk : k < n) :
    ∃ v w, runLines [.copyOut k, .decAcc] u = .next w ∧ HoldsMessage s base n w ∧ Inv v ∧
      DecodedChunk s (owedChunk s.cfg (inputLen s) base k) u v ∧ exec .reasmAccept v = .next w := by
  obtain ⟨-, hcopyOut⟩ := loadInAndCopyOutHoldTheirBytes
  obtain ⟨u', hcopy, hin, hrest, -⟩ := hcopyOut u k h.inv (hk.trans_eq h.count.symm)
  obtain ⟨id, hid⟩ := h.frames k hk
  have hcfg : u'.cfg = s.cfg := (congrArg State.cfg hrest).trans h.cfg
  have hinv : Inv (u'.setCmdWord (encode .dec)) := (runEvents_keeps_inv h.inv hcopy).of_inspected rfl
  obtain ⟨v, hdec, hv⟩ := exec_dec_decodedChunk (u := u'.setCmdWord (encode .dec)) hinv.legal hcfg size_owedChunk_le
    (flagsValid_owedChunk hvalid) (hid ▸ hin)
  obtain ⟨w, hacc⟩ := exec_next .reasmAccept (v.setCmdWord (encode .reasmAccept))
  have hinv' : Inv (v.setCmdWord (encode .reasmAccept)) := (exec_keeps_inv hinv hdec).of_inspected rfl
  have hdecoded : DecodedChunk s (owedChunk s.cfg (inputLen s) base k) u (v.setCmdWord (encode .reasmAccept)) := {
    outside := Eq.trans (b := u'.outsideDecoding) hv.outside (congrArg State.outsideDecoding hrest :)
    valid := hv.valid
    flags := hv.flags
    length := hv.length
    payload := fun hw => hv.payload (by rw [State.setCmdWord_decBuf, hrest]; exact hw) }
  refine ⟨_, w, ?_, ?_, hinv', hdecoded, hacc⟩
  · rw [runLines_cons_of_next hcopy, runLines_cons_of_next (runEvents_decAcc hdec hacc)]
    rfl
  · have hinvw := exec_keeps_inv hinv' hacc
    obtain ⟨r, l, m, st, rfl⟩ := execReasmAccept_writes hacc
    exact h.of_eq hinvw hdecoded.cfg hdecoded.encResult hdecoded.outBuf

/-! One more fragment (spec/43_reassembly.md R106, R107). -/

/-- REASM.ACCEPT in `v` appended the decoded payload to a message that goes on in `w`. -/
structure AppendsFragment (v w : State) : Prop where
  state : w.reasm.state = .collecting
  fragCount : w.reasm.fragCount.toNat = v.reasm.fragCount.toNat + 1
  firstFlags : w.reasm.firstFlags = if v.reasm.state = .idle then v.decHdr.flags else v.reasm.firstFlags
  accLen : w.accLen.toNat = v.accLen.toNat + v.decHdr.length.toNat
  kept : ∀ i, i < v.accLen.toNat → w.reasmBuf.read i = v.reasmBuf.read i
  appended : ∀ i, i < v.decHdr.length.toNat → w.reasmBuf.read (v.accLen.toNat + i) = v.decBuf.read i

section
variable {v w : State}

/-- Idle has no fragment and so no byte. -/
theorem ReasmOk.counts_of_idle (h : ReasmOk v) (hs : v.reasm.state = .idle) :
    v.reasm.fragCount.toNat = 0 ∧ v.accLen.toNat = 0 := by
  obtain ⟨hcount, -⟩ := h.idle hs
  have hlen := h.accLenLe
  rw [hcount] at hlen ⊢
  exact ⟨rfl, by simpa using hlen⟩

theorem appendsFragment_of_idle (h : Inv v) (hs : v.reasm.state = .idle) (hv : v.decHdr.valid = true)
    (ht : flagsTag v.decHdr.flags ≠ tagFinish) (hp : flagsPartial v.decHdr.flags = true)
    (he : exec .reasmAccept v = .next w) : AppendsFragment v w := by
  obtain ⟨-, hfirst⟩ := acceptFromIdle v h hs hv
  obtain ⟨w', hw', hfields, hlen, happended, -⟩ := hfirst (mt (flagsTag_eq_tagFinish_iff _).mpr ht)
  obtain rfl := Host.Outcome.next.inj (hw'.symm.trans he)
  obtain ⟨hcount, hacc⟩ := h.reasm.counts_of_idle hs
  have hreasm := congrArg State.reasm hfields
  exact {
    state := (congrArg ReasmReg.state hreasm).trans (if_pos hp)
    fragCount := by rw [hcount, congrArg ReasmReg.fragCount hreasm]; rfl
    firstFlags := (congrArg ReasmReg.firstFlags hreasm).trans (if_pos hs).symm
    accLen := by rw [hacc, hlen, Nat.zero_add]
    kept := fun i hi => by omega
    appended := fun i hi => by rw [hacc, Nat.zero_add, happended i hi] }

theorem appendsFragment_of_collecting (h : Inv v) (hs : v.reasm.state = .collecting) (hv : v.decHdr.valid = true)
    (ht : flagsTag v.decHdr.flags ≠ tagFinish) (hf : flagsTag v.decHdr.flags = flagsTag v.reasm.firstFlags)
    (hp : flagsPartial v.decHdr.flags = true) (hcount : v.reasm.fragCount.toNat < v.cfg.maxFragments)
    (he : exec .reasmAccept v = .next w) : AppendsFragment v w := by
  obtain ⟨-, -, -, -, -, hnext⟩ := acceptFromCollecting v h hs hv
  obtain ⟨w', hw', hfields, hcount', hlen, happended, hkept⟩ :=
    hnext (mt (flagsTag_eq_tagFinish_iff _).mpr ht) ((flagsTag_eq_iff _ _).mp hf) hp hcount
  obtain rfl := Host.Outcome.next.inj (hw'.symm.trans he)
  have hreasm := congrArg State.reasm hfields
  exact {
    state := (congrArg ReasmReg.state hreasm).trans hs
    fragCount := hcount'
    firstFlags := (congrArg ReasmReg.firstFlags hreasm).trans (if_neg (by rw [hs]; decide)).symm
    accLen := hlen
    kept := fun i hi => hkept i (.inl hi)
    appended := happended }

/-- The appended bytes stand behind the bytes that were there. -/
theorem AppendsFragment.load (h : AppendsFragment v w) : w.reasmBuf.load 0 w.accLen.toNat =
    v.reasmBuf.load 0 v.accLen.toNat ++ v.decBuf.load 0 v.decHdr.length.toNat := by
  rw [h.accLen, load_add, Nat.zero_add]
  congr 1
  · exact load_congr fun i hi => h.kept _ (by omega)
  · refine List.ext_getElem (by simp) fun i hi _ => ?_
    rw [getElem_load, getElem_load, Nat.zero_add, h.appended i (by simpa using hi)]

end

/-! The accumulator after k fragments of the message. -/

/-- `u` has accepted the first `k` fragments of the payload of `s`, of M bytes each but the last. -/
structure Accumulated (s : State) (base : FrameFlags) (k : Nat) (u : State) : Prop where
  state : u.reasm.state = if k = 0 then .idle else .collecting
  fragCount : u.reasm.fragCount.toNat = k
  firstFlags : k ≠ 0 → u.reasm.firstFlags = withPartial base
  accLen : u.accLen.toNat = min (inputLen s) (k * s.cfg.maxPayload)
  bytes : u.reasmBuf.load 0 u.accLen.toNat = s.inBuf.load 0 u.accLen.toNat

theorem accumulated_zero (s u : State) (base : FrameFlags) :
    Accumulated s base 0 (((u.setReasm .zero).setAccLen 0#16).setStatus ⟨.ok, .none⟩) where
  state := rfl
  fragCount := rfl
  firstFlags h0 := absurd rfl h0
  accLen := by simp
  bytes := rfl

section
variable {s u v w : State} {base : FrameFlags} {k : Nat}

/-- The next fragment is appended, be it the first or a later one. -/
theorem Accumulated.appendsFragment (h : Accumulated s base k u) (hbase : flagsTag base ≠ tagFinish)
    (hk : k < v.cfg.maxFragments) (hv : Inv v) (hd : DecodedChunk s (fragment s.cfg (inputLen s) base k) u v)
    (he : exec .reasmAccept v = .next w) : AppendsFragment v w := by
  have htag : flagsTag v.decHdr.flags = flagsTag base := by rw [hd.flags]; exact flagsTag_withPartial base
  have hpartial : flagsPartial v.decHdr.flags = true := by rw [hd.flags]; exact flagsPartial_withPartial base
  have hstate := h.state
  rw [← hd.reasm] at hstate
  by_cases h0 : k = 0
  · exact appendsFragment_of_idle hv (hstate.trans (if_pos h0)) hd.valid (htag ▸ hbase) hpartial he
  · have hfirst : flagsTag v.decHdr.flags = flagsTag v.reasm.firstFlags := by
      rw [htag, hd.reasm, h.firstFlags h0, flagsTag_withPartial]
    have hcount : v.reasm.fragCount.toNat < v.cfg.maxFragments := by rwa [hd.reasm, h.fragCount]
    exact appendsFragment_of_collecting hv (hstate.trans (if_neg h0)) hd.valid (htag ▸ hbase) hfirst hpartial hcount he

theorem Accumulated.succ (h : Accumulated s base k u) (hlt : k * s.cfg.maxPayload < inputLen s) (hw : u.decBuf.wf)
    (hd : DecodedChunk s (fragment s.cfg (inputLen s) base k) u v) (ha : AppendsFragment v w) :
    Accumulated s base (k + 1) w := by
  have hstart : v.accLen.toNat = k * s.cfg.maxPayload := by
    rw [hd.accLen, h.accLen]
    omega
  have hend : v.accLen.toNat + v.decHdr.length.toNat = min (inputLen s) ((k + 1) * s.cfg.maxPayload) := by
    simp only [hstart, hd.length, fragment, Nat.succ_mul]
    omega
  have hbefore : v.reasmBuf.load 0 v.accLen.toNat = s.inBuf.load 0 v.accLen.toNat := by
    rw [hd.reasmBuf, hd.accLen]
    exact h.bytes
  have hpayload : v.decBuf.load 0 v.decHdr.length.toNat = s.inBuf.load v.accLen.toNat v.decHdr.length.toNat := by
    rw [hd.length, hstart]
    exact hd.payload hw
  exact {
    state := ha.state
    fragCount := by rw [ha.fragCount, hd.reasm, h.fragCount]
    firstFlags := fun _ => by
      rw [ha.firstFlags, hd.reasm, h.state, hd.flags]
      by_cases h0 : k = 0
      · simp [h0, fragment]
      · simp [h0, h.firstFlags h0]
    accLen := ha.accLen.trans hend
    bytes := by rw [ha.load, ha.accLen, load_add, hbefore, hpayload, Nat.zero_add] }

end

/-! The whole message. -/

/-- The lines that feed the first n frames to the accumulator. -/
def acceptLines (n : Nat) : List HostLine := (List.range n).flatMap fun k => [.copyOut k, .decAcc]

theorem acceptLines_succ (n : Nat) : acceptLines (n + 1) = acceptLines n ++ [.copyOut n, .decAcc] := by
  simp [acceptLines, List.range_succ]

/-- The sentinel completes the message and adds nothing to it (spec/43_reassembly.md R107). -/
theorem exec_reasmAccept_sentinel {v w : State} (h : Inv v) (hs : v.reasm.state = .collecting)
    (hv : v.decHdr.valid = true) (ht : flagsTag v.decHdr.flags = tagFinish) (hlen : v.decHdr.length.toNat = 0)
    (he : exec .reasmAccept v = .next w) :
    w.reasm = { v.reasm with state := .complete, event := .completeFin } ∧ w.accLen = v.accLen ∧
      w.reasmBuf = v.reasmBuf := by
  obtain ⟨-, hcomplete, -⟩ := acceptFromCollecting v h hs hv
  have hw := hcomplete ((flagsTag_eq_tagFinish_iff _).mp ht) (BitVec.eq_of_toNat_eq hlen)
  obtain rfl := Host.Outcome.next.inj (hw.symm.trans he)
  exact ⟨rfl, rfl, rfl⟩

/-- The payload of `s` is one that ENC with the flags `base` fragments into at most F frames and a sentinel
(spec/41_encoder.md R81, R82). -/
structure Fragmented (s : State) (base : FrameFlags) : Prop where
  valid : flagsValid base = true
  tag : flagsTag base ≠ tagFinish
  payloadPos : 1 ≤ s.cfg.maxPayload
  long : s.cfg.maxPayload ≤ inputLen s
  limit : fragmentCount s.cfg (inputLen s) ≤ s.cfg.maxFragments

theorem fragmented_of_ready {s : State} {tag : BitVec 3} (ack part : Bool) (hl : s.cfg.legal = true)
    (hr : EncReady s tag) (htag : tag.toNat ≠ 3) (hle : s.cfg.maxPayload ≤ inputLen s) :
    Fragmented s (baseFlags tag ack part) := by
  obtain ⟨hM, -⟩ := s.cfg.legal_iff.mp hl
  exact {
    valid := flagsValid_baseFlags hr.tagNamed ack part
    tag := by
      rw [← flagsTag_withPartial]
      exact mt (flagsTag_withPartial_baseFlags_eq_tagFinish_iff tag ack part).mp htag
    payloadPos := hM
    long := hle
    limit := (fragmentCount_le_iff s.cfg hM _).mpr hr.limit }

section
variable {s t u : State} {base : FrameFlags} {n k : Nat}

theorem HoldsMessage.runLines_acceptLines (h : HoldsMessage s base n u) (hf : Fragmented s base)
    (h0 : Accumulated s base 0 u) (hk : k ≤ fragmentCount s.cfg (inputLen s)) (hn : fragmentCount s.cfg (inputLen s) ≤ n) :
    ∃ w, runLines (acceptLines k) u = .next w ∧ HoldsMessage s base n w ∧ Accumulated s base k w := by
  induction k with
  | zero => exact ⟨u, rfl, h, h0⟩
  | succ k ih =>
    obtain ⟨x, hx, hmsg, hacc⟩ := ih (by omega)
    have hlt : k * s.cfg.maxPayload < inputLen s := (lt_fragmentCount_iff hf.payloadPos).mp hk
    obtain ⟨v, w, hrun, hmsg', hv, hd, he⟩ := hmsg.runLines_frame hf.valid (Nat.lt_of_lt_of_le hk hn)
    rw [owedChunk_fragment hf.long hlt] at hd
    have hcount : k < v.cfg.maxFragments := by
      rw [hd.cfg, hmsg.cfg]
      exact Nat.lt_of_lt_of_le hk hf.limit
    refine ⟨w, ?_, hmsg', hacc.succ hlt hmsg.inv.memory.decWf hd (hacc.appendsFragment hf.tag hcount hv hd he)⟩
    rw [acceptLines_succ, runLines_append hx, hrun]

/-- K fragments make the message, and the sentinel behind them completes it. -/
theorem HoldsMessage.reassembles (h : HoldsMessage s base (fragmentCount s.cfg (inputLen s) + 1) t)
    (hf : Fragmented s base) :
    ∃ u, runLines (.command .reasmReset :: acceptLines t.encResult.frameCount.toNat) t = .next u ∧
      u.reasm.state = .complete ∧ u.reasm.event = .completeFin ∧
      u.reasm.fragCount.toNat + 1 = t.encResult.frameCount.toNat ∧ u.reasm.firstFlags = withPartial base ∧
      u.accLen = s.len ∧ u.reasmBuf.load 0 (inputLen s) = s.inBuf.load 0 (inputLen s) := by
  have hreset := exec_reasmReset (t.setCmdWord (encode .reasmReset))
  have hcmd := h.setCmdWord (encode .reasmReset)
  have hmsg := hcmd.of_eq (exec_keeps_inv hcmd.inv hreset) rfl rfl rfl
  obtain ⟨x, hx, hmsgx, hacc⟩ := hmsg.runLines_acceptLines hf (accumulated_zero s _ base) le_rfl (Nat.le_succ _)
  obtain ⟨v, u, hrun, -, hv, hd, he⟩ := hmsgx.runLines_frame hf.valid (Nat.lt_succ_self _)
  have hK : inputLen s ≤ fragmentCount s.cfg (inputLen s) * s.cfg.maxPayload :=
    not_lt.mp (mt (lt_fragmentCount_iff hf.payloadPos).mpr (lt_irrefl _))
  have hK0 : fragmentCount s.cfg (inputLen s) ≠ 0 := fun h0 => by
    rw [h0, Nat.zero_mul] at hK
    exact absurd (hf.payloadPos.trans hf.long) (by omega)
  rw [owedChunk_sentinel hf.long hK] at hd
  have hstate : v.reasm.state = .collecting := by rw [hd.reasm, hacc.state, if_neg hK0]
  have htag : flagsTag v.decHdr.flags = tagFinish := by rw [hd.flags, flagsTag_sentinelFlags]
  obtain ⟨hreasm, hlen, hbuf⟩ := exec_reasmAccept_sentinel hv hstate hd.valid htag hd.length he
  have hall : x.accLen.toNat = inputLen s := hacc.accLen.trans (min_eq_left hK)
  have hbytes := hacc.bytes
  rw [hall] at hbytes
  refine ⟨u, ?_, ?_, ?_, ?_, ?_, ?_, ?_⟩
  · rw [h.count, acceptLines_succ, runLines_command_cons rfl hreset, runLines_append hx, hrun]
  · rw [hreasm]
  · rw [hreasm]
  · rw [hreasm, hd.reasm, hacc.fragCount, h.count]
  · rw [hreasm, hd.reasm]
    exact hacc.firstFlags hK0
  · rw [hlen, hd.accLen]
    exact BitVec.eq_of_toNat_eq hall
  · rw [hbuf, hd.reasmBuf]
    exact hbytes

end

/-- What a ready ENC with M <= L and another tag than FINISH left in OUT_BUF is reassembled to its payload
(spec/43_reassembly.md R111). -/
theorem HoldsMessage.reassembles_of_ready {s t : State} {tag : BitVec 3} {ack part : Bool} (hl : s.cfg.legal = true)
    (hr : EncReady s tag) (htag : tag.toNat ≠ 3) (hle : s.cfg.maxPayload ≤ s.len.toNat)
    (h : HoldsMessage s (baseFlags tag ack part) (owedFrames s tag ack part).length t) :
    ∃ u, runLines (.command .reasmReset ::
        (List.range t.encResult.frameCount.toNat).flatMap (fun k => [.copyOut k, .decAcc])) t = .next u ∧
      u.reasm.state = .complete ∧ u.reasm.event = .completeFin ∧
      u.reasm.fragCount.toNat + 1 = t.encResult.frameCount.toNat ∧
      u.reasm.firstFlags.toNat = tag.toNat + 16 + 8 * ack.toNat ∧
      u.accLen = s.len ∧ u.reasmBuf.load 0 s.len.toNat = s.inBuf.load 0 s.len.toNat := by
  have hcount : (owedFrames s tag ack part).length = fragmentCount s.cfg (inputLen s) + 1 := by
    rw [owedFrames_of_le hle, if_neg htag]
    simp
  rw [hcount] at h
  obtain ⟨u, hrun, hstate, hevent, hfrag, hflags, hlen, hbytes⟩ :=
    h.reassembles (fragmented_of_ready ack part hl hr htag hle)
  refine ⟨u, hrun, hstate, hevent, hfrag, ?_, hlen, hbytes⟩
  rw [hflags, toNat_withPartial_baseFlags]
  omega

/-- Settles O58: right after ENC the frames carry id 0. -/
theorem fragmentedMessageReassembles : Obligations.FragmentedMessageReassembles := by
  intro s tag ack part h hr htag hle
  obtain ⟨u, hu⟩ := (holdsMessage_encoded (ack := ack) (part := part) h hr).reassembles_of_ready h.legal hr htag hle
  exact ⟨_, u, exec_enc_of_ready ack part h.legal hr, hu⟩

/-- Settles O59: the rewrites change ids alone. -/
theorem rewrittenMessageReassembles : Obligations.RewrittenMessageReassembles := by
  intro s tag ack part rs h hr htag hle hrs
  have hcmd : Inv (s.setCmdWord (encode (.enc tag ack part))) := h.of_inspected rfl
  have hready : EncReady (s.setCmdWord (encode (.enc tag ack part))) tag := ⟨hr.fits, hr.tagLow, hr.tagHigh, hr.limit⟩
  have henc := exec_enc_of_ready ack part hcmd.legal hready
  obtain ⟨t, ht, hmsg⟩ := (holdsMessage_encoded (ack := ack) (part := part) hcmd hready).runLines_rewrites hrs
  obtain ⟨u, hu⟩ := hmsg.reassembles_of_ready hcmd.legal hready htag hle
  exact ⟨t, u, (runLines_command_cons rfl henc _).trans ht, hu⟩

/-! A FINISH message (spec/43_reassembly.md R112). -/

theorem flagsTag_owedChunk {c : Config} {len k : Nat} {base : FrameFlags} (hbase : flagsTag base = tagFinish) :
    flagsTag (owedChunk c len base k).flags = tagFinish := by
  unfold owedChunk
  split_ifs
  · exact hbase
  · exact (flagsTag_withPartial base).trans hbase
  · exact flagsTag_sentinelFlags _

theorem exec_reasmAccept_of_idle_finish {v : State} (hs : v.reasm.state = .idle) (hv : v.decHdr.valid = true)
    (ht : flagsTag v.decHdr.flags = tagFinish) :
    exec .reasmAccept v = .next ((setEvent (consumeDecoded v) .strayFinish).setStatus ⟨.ok, .none⟩) := by
  rw [exec_reasmAccept_idle hs hv, acceptIdle_of_finish (by exact ht)]

/-- Settles O60: every owed frame of such a message has the tag FINISH, and Idle takes none of them. -/
theorem finishTaggedMessageNeverStarts : Obligations.FinishTaggedMessageNeverStarts := by
  intro s ack part h hr
  refine ⟨_, exec_enc_of_ready ack part h.legal hr, fun k hk u hu hs hin => ?_⟩
  rw [frameBytes_encoded h.legal h.memory.outWf hr hk] at hin
  obtain ⟨v, hdec, hd⟩ := exec_dec_decodedChunk (hu ▸ h.legal) hu size_owedChunk_le
    (flagsValid_owedChunk (flagsValid_baseFlags hr.tagNamed ack part)) hin
  have htag : flagsTag v.decHdr.flags = tagFinish := by
    rw [hd.flags]
    exact flagsTag_owedChunk (flagsTag_baseFlags tagFinish ack part)
  have hidle : v.reasm.state = .idle := by rw [hd.reasm, hs]
  exact ⟨v, _, hdec, exec_reasmAccept_of_idle_finish hidle hd.valid htag, hidle, rfl, hd.reasmBuf, hd.accLen⟩

end Sys2Proof.Machine
end

section
/-! PROOFS. Control (spec/44_control.md R113, R114): every command and step completes, NOP, and what the commands that
store nothing leave unchanged. -/

namespace Sys2Proof.Machine

/-- Settles O8: no arm of the dispatch and no host event faults, and a block with nothing to do holds its state. -/
theorem everyCommandAndStepCompletes : Obligations.EveryCommandAndStepCompletes :=
  ⟨exec_next, fun _ hl => step_next_of_legal hl, fun _ hl hp => (step_of_legal hl).trans (nextEvent_nil hp)⟩

theorem exec_nop (s : State) : exec .nop s = .next { s with status := { err := .ok, reason := .none } } := rfl

/-- Settles O24: every word of the row is NOP, which has no operand. -/
theorem nopReportsSuccessOnly : Obligations.NopReportsSuccessOnly := by
  refine ⟨exec_nop, fun s w rest hl hp hw => ?_⟩
  have hd : decode w = .ok .nop := decode_of_rowMatch hw trivial
  rw [stepRunsTheDecodedCommand s w .nop rest hl hp hd, exec_nop]

/-! The frames of the commands that store nothing. -/

section
variable {s t : State} {i : Instr}

theorem exec_nop_frame (h : exec i s = .next t) (hi : i = .nop) : t = { s with status := t.status } := by
  subst hi
  obtain ⟨st, rfl⟩ := execNop_writes h
  rfl

theorem exec_crc_frame (h : exec i s = .next t) (hi : i = .crcClear ∨ (∃ b, i = .crcUpdate b) ∨ i = .crcBuf) :
    t = { s with status := t.status, crcState := t.crcState } := by
  obtain rfl | ⟨b, rfl⟩ | rfl := hi
  · obtain ⟨v, st, rfl⟩ := execCrcClear_writes h
    rfl
  · obtain ⟨v, st, rfl⟩ := execCrcUpdate_writes h
    rfl
  · obtain ⟨v, st, rfl⟩ := execCrcBuf_writes h
    rfl

theorem exec_reasmReset_frame (h : exec i s = .next t) (hi : i = .reasmReset) :
    t = { s with status := t.status, reasm := t.reasm, accLen := t.accLen } := by
  subst hi
  obtain ⟨r, n, st, rfl⟩ := execReasmReset_writes h
  rfl

end

/-- Settles O23: none of the three frames has a buffer among the fields that can change. -/
theorem registerCommandsFrame : Obligations.RegisterCommandsFrame := by
  intro i s t h
  refine ⟨⟨exec_nop_frame h, exec_crc_frame h, exec_reasmReset_frame h⟩, fun hi a => ?_⟩
  obtain hi | hi | hi : i = .nop ∨ (i = .crcClear ∨ (∃ b, i = .crcUpdate b) ∨ i = .crcBuf) ∨ i = .reasmReset := by
    simpa only [or_assoc] using hi
  · rw [exec_nop_frame h hi]
    exact ⟨rfl, rfl, rfl, rfl⟩
  · rw [exec_crc_frame h hi]
    exact ⟨rfl, rfl, rfl, rfl⟩
  · rw [exec_reasmReset_frame h hi]
    exact ⟨rfl, rfl, rfl, rfl⟩

end Sys2Proof.Machine
end

section
/-! PROOFS. The errors of ENC (spec/60_exceptions.md R119, R121, in the order of R124): each of its three checks, from the
condition that fails it while the earlier ones hold, to the state it ends in. -/

namespace Sys2Proof.Machine

/-- More than F*M bytes are more than the one frame below M, and more than F fragments. -/
theorem split_eq_none_of_lt {c : Config} {len : Nat} {base : FrameFlags} (hl : c.legal = true)
    (h : c.maxFragments * c.maxPayload < len) : split c len base = none := by
  obtain ⟨hM, -, hF, -⟩ := c.legal_iff.mp hl
  have hone : ¬ len < c.maxPayload := not_lt.mpr ((Nat.le_mul_of_pos_left _ hF).trans h.le)
  have hlimit : fragmentCount c len > c.maxFragments := not_le.mp (mt (fragmentCount_le_iff c hM len).mp (not_le.mpr h))
  exact (if_neg hone).trans (if_pos hlimit)

/-- The state of a failed ENC: ENC_RESULT is 0 and STATUS has the error (spec/41_encoder.md R83). -/
def State.encFailed (s : State) (e : ErrCode) : State := (s.setEncResult .zero).setStatus ⟨e, .none⟩

section
variable {s : State} {tag : BitVec 3} (ack part : Bool)

theorem exec_enc_of_inSize_lt (h : s.cfg.inSize < inputLen s) :
    exec (.enc tag ack part) s = .next (s.encFailed .invalidArgument) := by
  have hfits : inputFits s = false := decide_eq_false (not_le.mpr h)
  simp [exec, execEnc, hfits, raise, State.encFailed]

theorem exec_enc_of_tagNamed_eq_false (h : inputLen s ≤ s.cfg.inSize) (htag : tagNamed tag = false) :
    exec (.enc tag ack part) s = .next (s.encFailed .unsupportedType) := by
  have hfits : inputFits s = true := decide_eq_true h
  simp [exec, execEnc, hfits, htag, raise, State.encFailed]

theorem exec_enc_of_split_eq_none (h : inputLen s ≤ s.cfg.inSize) (htag : tagNamed tag = true)
    (hsplit : split s.cfg (inputLen s) (baseFlags tag ack part) = none) :
    exec (.enc tag ack part) s = .next (s.encFailed .fragmentLimitExceeded) := by
  have hfits : inputFits s = true := decide_eq_true h
  simp [exec, execEnc, hfits, htag, hsplit, raise, State.encFailed]

end

/-- Settles O32: one clause for each check, in the order in which ENC makes them. -/
theorem encReportsItsErrorsInOrder : Obligations.EncReportsItsErrorsInOrder := by
  intro s tag ack part hl failed
  refine ⟨fun hlen => ?_, fun hlen htag => ?_, fun hlen h0 h7 hlimit => ?_⟩
  · exact exec_enc_of_inSize_lt ack part hlen
  · exact exec_enc_of_tagNamed_eq_false ack part hlen ((tagNamed_eq_false_iff tag).mpr htag)
  · exact exec_enc_of_split_eq_none ack part hlen ((tagNamed_iff tag).mpr ⟨h0, h7⟩) (split_eq_none_of_lt hl hlimit)

end Sys2Proof.Machine
end

section
/-! PROOFS. No result depends on a stale byte (spec/70_reset_and_hazards.md R144, spec/10_state.md R32): first the memory
operations on two memories that agree on the bytes they are given, then the state updates on two states that agree but for
stale bytes, then the commands. -/

namespace Sys2Proof.Machine

open Memory

/-! Two memories that agree. -/

/-- Where the old bytes agree outside the stored run, all bytes agree after the store. -/
theorem Memory.read_storeBytes_congr {size i a : Nat} {m m' : Memory} {bs : List Byte} (hm : wf m) (hm' : wf m')
    (hs : i + bs.length ≤ size) (h : a < i ∨ i + bs.length ≤ a → read m a = read m' a) :
    read (storeBytes size m i bs) a = read (storeBytes size m' i bs) a := by
  by_cases ha : a < i ∨ i + bs.length ≤ a
  · rw [read_storeBytes_outside _ _ _ ha, read_storeBytes_outside _ _ _ ha, h ha]
  · obtain ⟨k, rfl⟩ := Nat.exists_eq_add_of_le (show i ≤ a by omega)
    have hk : k < bs.length := by omega
    rw [read_storeBytes_inside bs m i k hk hm (by omega), read_storeBytes_inside bs m' i k hk hm' (by omega)]

section
variable {c : Config} {id : Byte} {n : Nat}

/-- With frame k below n, its rewrite reads and writes below n only. -/
theorem read_rewriteFrame_congr {m m' : Memory} {k : Nat} (hm : wf m) (hm' : wf m') (hk : frameOffset m (k + 1) ≤ n)
    (hn : n ≤ c.outSize) (h : ∀ a, a < n → read m a = read m' a) {a : Nat} (ha : a < n) :
    read (rewriteFrame c id m k) a = read (rewriteFrame c id m' k) a := by
  have hsucc := frameOffset_succ m k
  have hoff : frameOffset m' k = frameOffset m k := frameOffset_congr fun a ha => h a (by omega)
  have hlen : frameLength m' k = frameLength m k := by
    have hbytes := congrArg List.length (frameBytes_congr fun a ha => h a (Nat.lt_of_lt_of_le ha hk))
    simpa using hbytes
  have hid (a : Nat) (ha : a < n) : read (store c.outSize m (frameOffset m k + 1) id) a =
      read (store c.outSize m' (frameOffset m k + 1) id) a :=
    read_storeBytes_congr (bs := [id]) hm hm' (by simp; omega) fun _ => h a ha
  have hhead : load (store c.outSize m (frameOffset m k + 1) id) (frameOffset m k) (3 + frameLength m k) =
      load (store c.outSize m' (frameOffset m k + 1) id) (frameOffset m k) (3 + frameLength m k) :=
    load_congr fun j hj => hid _ (by omega)
  simp only [rewriteFrame, hoff, hlen, hhead]
  exact read_storeBytes_congr (wf_store hm) (wf_store hm') (by simp; omega) fun _ => hid a ha

theorem read_rewriteFrames_congr (ks : List Nat) {m m' : Memory} (hm : wf m) (hm' : wf m')
    (hks : ∀ k ∈ ks, frameOffset m (k + 1) ≤ n) (hn : n ≤ c.outSize) (h : ∀ a, a < n → read m a = read m' a)
    {a : Nat} (ha : a < n) :
    read (ks.foldl (rewriteFrame c id) m) a = read (ks.foldl (rewriteFrame c id) m') a := by
  induction ks generalizing m m' with
  | nil => exact h a ha
  | cons k ks ih =>
    obtain ⟨hk, hks⟩ := List.forall_mem_cons.mp hks
    refine ih (wf_rewriteFrame hm) (wf_rewriteFrame hm') (fun j hj => ?_) fun a => read_rewriteFrame_congr hm hm' hk hn h
    rw [frameOffset_rewriteFrame]
    exact hks j hj

end

/-! What two states that agree but for stale bytes have in common. -/

section
variable {s t : State}

/-- Everything that is read off the registers alone. -/
theorem AgreeButStale.field {α : Type} (h : AgreeButStale s t) (f : State → α)
    (hf : ∀ u : State, f u.registers = f u := by exact fun _ => rfl) : f t = f s := by
  rw [← hf t, ← h.registers, hf s]

theorem AgreeButStale.inputBytes (h : AgreeButStale s t) : inputBytes t = inputBytes s := by
  rw [Machine.inputBytes, h.field inputLen]
  exact load_congr fun i hi => (h.input _ (by rwa [Nat.zero_add])).symm

theorem AgreeButStale.decodedPayload (h : AgreeButStale s t) :
    t.decBuf.load 0 s.decHdr.length.toNat = s.decBuf.load 0 s.decHdr.length.toNat :=
  load_congr fun i hi => (h.decoded _ (by rwa [Nat.zero_add])).symm

/-- A chunk of the input is all below LEN, or empty. -/
theorem AgreeButStale.chunkFrame {ch : Chunk} (h : AgreeButStale s t)
    (hch : ch.start + ch.size ≤ max ch.start (inputLen s)) : chunkFrame t ch = chunkFrame s ch := by
  have hload : t.inBuf.load ch.start ch.size = s.inBuf.load ch.start ch.size :=
    load_congr fun i hi => (h.input _ (show _ < inputLen s by omega)).symm
  rw [Machine.chunkFrame, hload, h.field State.cfg, h.field State.cfgVersion]
  rfl

theorem AgreeButStale.encodedBytes {base : FrameFlags} {chunks : List Chunk} (h : AgreeButStale s t)
    (hsplit : split s.cfg (inputLen s) base = some chunks) :
    (chunks ++ sentinel s.cfg (inputLen s) base).flatMap (Machine.chunkFrame t) =
      (chunks ++ sentinel s.cfg (inputLen s) base).flatMap (Machine.chunkFrame s) := by
  refine List.flatMap_congr fun ch hch => h.chunkFrame ?_
  obtain hch | hch := List.mem_append.mp hch
  · obtain ⟨-, -, hinside⟩ := split_chunk hsplit hch
    exact hinside
  · obtain ⟨hempty, -, -⟩ := sentinel_chunk hch
    omega

end

/-! The state updates, each of them made in both states. -/

section
variable {s t : State} {m m' : Memory}

theorem AgreeButStale.setStatus (h : AgreeButStale s t) (r : StatusReg) :
    AgreeButStale (s.setStatus r) (t.setStatus r) :=
  { h with registers := congrArg (State.setStatus · r) h.registers }

theorem AgreeButStale.setCrcState (h : AgreeButStale s t) (v : Half) :
    AgreeButStale (s.setCrcState v) (t.setCrcState v) :=
  { h with registers := congrArg (State.setCrcState · v) h.registers }

theorem AgreeButStale.setReasm (h : AgreeButStale s t) (r : ReasmReg) :
    AgreeButStale (s.setReasm r) (t.setReasm r) :=
  { h with registers := congrArg (State.setReasm · r) h.registers }

theorem AgreeButStale.setEvent (h : AgreeButStale s t) (e : ReasmEvent) :
    AgreeButStale (setEvent s e) (setEvent t e) :=
  { h with registers := congrArg (Machine.setEvent · e) h.registers }

theorem AgreeButStale.setOutcome (h : AgreeButStale s t) (st : ReasmState) (e : ReasmEvent) :
    AgreeButStale (setOutcome s st e) (setOutcome t st e) :=
  { h with registers := congrArg (Machine.setOutcome · st e) h.registers }

theorem AgreeButStale.setFragCount (h : AgreeButStale s t) (n : Byte) :
    AgreeButStale (setFragCount s n) (setFragCount t n) :=
  { h with registers := congrArg (Machine.setFragCount · n) h.registers }

theorem AgreeButStale.consumeDecoded (h : AgreeButStale s t) : AgreeButStale (consumeDecoded s) (consumeDecoded t) :=
  { h with registers := congrArg Machine.consumeDecoded h.registers }

/-- With ACC_LEN = 0 every byte of REASM_BUF is stale. -/
theorem AgreeButStale.clearAccLen (h : AgreeButStale s t) : AgreeButStale (s.setAccLen 0#16) (t.setAccLen 0#16) :=
  { h with
    registers := congrArg (State.setAccLen · 0#16) h.registers
    accumulated := fun i hi => absurd hi (Nat.not_lt_zero i) }

/-- With OUT_LEN = 0 every byte of OUT_BUF is stale. -/
theorem AgreeButStale.clearEncResult (h : AgreeButStale s t) :
    AgreeButStale (s.setEncResult .zero) (t.setEncResult .zero) :=
  { h with
    registers := congrArg (State.setEncResult · .zero) h.registers
    output := fun i hi => absurd hi (Nat.not_lt_zero i) }

theorem AgreeButStale.setOutBuf (h : AgreeButStale s t)
    (hm : ∀ i, i < s.encResult.outLen.toNat → m.read i = m'.read i) :
    AgreeButStale (s.setOutBuf m) (t.setOutBuf m') :=
  { h with output := hm }

theorem AgreeButStale.setFrames {r : EncResultReg} (h : AgreeButStale s t)
    (hm : ∀ i, i < r.outLen.toNat → m.read i = m'.read i) :
    AgreeButStale ((s.setOutBuf m).setEncResult r) ((t.setOutBuf m').setEncResult r) :=
  { h with
    registers := congrArg (State.setEncResult · r) h.registers
    output := hm }

theorem AgreeButStale.setDecoded {r : DecHdrReg} {c : DecCrcReg} (h : AgreeButStale s t)
    (hm : ∀ i, i < r.length.toNat → m.read i = m'.read i) :
    AgreeButStale (((s.setDecBuf m).setDecHdr r).setDecCrc c) (((t.setDecBuf m').setDecHdr r).setDecCrc c) :=
  { h with
    registers := congrArg (fun u => (State.setDecHdr u r).setDecCrc c) h.registers
    decoded := hm }

/-- The appended payload ends where ACC_LEN stands afterwards, and agrees as the decoded bytes do. -/
theorem AgreeButStale.appendPayload (h : AgreeButStale s t) (hs : s.reasmBuf.wf) (ht : t.reasmBuf.wf)
    (hsize : s.accLen.toNat + s.decHdr.length.toNat ≤ s.cfg.reasmSize) :
    AgreeButStale (appendPayload s) (appendPayload t) :=
  { h with
    registers := congrArg (fun u : State => u.setAccLen (u.accLen + u.decHdr.length.setWidth 16)) h.registers
    accumulated := fun i hi => by
      rw [appendPayload_reasmBuf, appendPayload_reasmBuf, h.field State.cfg, h.field State.accLen, h.field State.decHdr,
        h.decodedPayload]
      refine read_storeBytes_congr hs ht (by rwa [length_load]) fun hout => h.accumulated i ?_
      have hacc : (s.accLen + s.decHdr.length.setWidth 16).toNat ≤ s.accLen.toNat + s.decHdr.length.toNat := by
        rw [BitVec.toNat_add, BitVec.toNat_setWidth_of_le (by decide)]
        exact Nat.mod_le _ _
      rw [length_load] at hout
      rw [appendPayload_accLen] at hi
      omega }

end

/-! How a command ends. -/

/-- The next states of the two runs agree but for stale bytes. -/
def NextAgreeButStale (r r' : Result) : Prop :=
  ∀ s' t', r = .next s' → r' = .next t' → AgreeButStale s' t'

section
variable {s t : State}

theorem AgreeButStale.finish (h : AgreeButStale s t) : NextAgreeButStale (finish s) (finish t) := by
  intro s' t' hs ht
  obtain rfl := (finish_eq_next _ _).mp hs
  obtain rfl := (finish_eq_next _ _).mp ht
  exact h.setStatus _

theorem AgreeButStale.raise (h : AgreeButStale s t) (e : ErrCode) (r : FrameReason) :
    NextAgreeButStale (raise e r s) (raise e r t) := by
  intro s' t' hs ht
  obtain rfl := (raise_eq_next _ _ _ _).mp hs
  obtain rfl := (raise_eq_next _ _ _ _).mp ht
  exact h.setStatus _

/-! The accumulator. -/

theorem AgreeButStale.acceptIdle (h : AgreeButStale s t) (hs : s.reasmBuf.wf) (ht : t.reasmBuf.wf)
    (hsize : s.decHdr.length.toNat ≤ s.cfg.reasmSize) : AgreeButStale (acceptIdle s) (acceptIdle t) := by
  have hfirst := (h.setReasm { s.reasm with firstFlags := s.decHdr.flags }).clearAccLen
  have happended := (hfirst.appendPayload hs ht ((Nat.zero_add _).trans_le hsize)).setFragCount 1#8
  unfold Machine.acceptIdle
  rw [h.field State.decHdr, h.field State.reasm]
  split_ifs
  · exact h.setEvent _
  · exact happended.setOutcome _ _
  · exact happended.setOutcome _ _

theorem AgreeButStale.acceptCollecting (h : AgreeButStale s t) (hs : s.reasmBuf.wf) (ht : t.reasmBuf.wf)
    (hsize : s.reasm.fragCount.toNat ≠ s.cfg.maxFragments →
      s.accLen.toNat + s.decHdr.length.toNat ≤ s.cfg.reasmSize) :
    AgreeButStale (acceptCollecting s) (acceptCollecting t) := by
  unfold Machine.acceptCollecting
  rw [h.field State.decHdr, h.field State.reasm, h.field State.cfg]
  split_ifs with hfinish hloaded htag hpartial hcount
  · exact h.setOutcome _ _
  · exact h.setOutcome _ _
  · exact h.setOutcome _ _
  · exact h.setOutcome _ _
  · exact h.setOutcome _ _
  · exact ((h.appendPayload hs ht (hsize hcount)).setFragCount _).setEvent _

/-- A frame that counts as valid has room in REASM_BUF while fewer than F fragments are in it. -/
theorem AgreeButStale.acceptFrame {valid : Bool} (h : AgreeButStale s t) (hs : Inv s) (ht : t.reasmBuf.wf)
    (hsize : valid = true → s.reasm.fragCount.toNat < s.cfg.maxFragments →
      s.accLen.toNat + s.decHdr.length.toNat ≤ s.cfg.reasmSize) :
    AgreeButStale (acceptFrame valid s) (acceptFrame valid t) := by
  have hstate : t.reasm.state = s.reasm.state := h.field fun u => u.reasm.state
  unfold Machine.acceptFrame
  rw [hstate]
  cases hst : s.reasm.state with
  | complete => exact h.setEvent _
  | failed => exact h.setEvent _
  | idle =>
    cases valid with
    | false => exact h.setEvent _
    | true =>
      obtain ⟨hcount, -⟩ := hs.reasm.idle hst
      obtain ⟨-, -, hF, -⟩ := s.cfg.legal_iff.mp hs.legal
      have hfits := hsize rfl (by rw [hcount]; exact hF)
      exact h.acceptIdle hs.memory.reasmWf ht (by omega)
  | collecting =>
    cases valid with
    | false => exact h.setEvent _
    | true =>
      exact h.acceptCollecting hs.memory.reasmWf ht fun hne =>
        hsize rfl (Nat.lt_of_le_of_ne hs.reasm.fragCountLe hne)

/-! The commands. -/

theorem execCrcClear_agree (h : AgreeButStale s t) : NextAgreeButStale (execCrcClear s) (execCrcClear t) := by
  rw [execCrcClear, execCrcClear, h.field State.cfg]
  exact (h.setCrcState _).finish

theorem execCrcUpdate_agree (h : AgreeButStale s t) (b : Byte) :
    NextAgreeButStale (execCrcUpdate b s) (execCrcUpdate b t) := by
  rw [execCrcUpdate, execCrcUpdate, h.field State.cfg, h.field State.crcState]
  exact (h.setCrcState _).finish

theorem execCrcBuf_agree (h : AgreeButStale s t) : NextAgreeButStale (execCrcBuf s) (execCrcBuf t) := by
  rw [execCrcBuf, execCrcBuf, h.field inputFits, h.field State.cfg, h.inputBytes]
  split_ifs
  · exact (h.setCrcState _).finish
  · exact h.raise _ _

/-- The frames are made of the input alone, and every byte below the new OUT_LEN is stored. -/
theorem execEnc_agree (h : AgreeButStale s t) (hs : Inv s) (ht : t.outBuf.wf) (tag : BitVec 3) (ack part : Bool) :
    NextAgreeButStale (execEnc tag ack part s) (execEnc tag ack part t) := by
  unfold execEnc
  rw [h.field inputFits, h.field State.cfg, h.field inputLen]
  split_ifs
  · exact h.clearEncResult.raise _ _
  · exact h.clearEncResult.raise _ _
  · cases hsplit : split s.cfg (inputLen s) (baseFlags tag ack part) with
    | none => exact h.clearEncResult.raise _ _
    | some chunks =>
      obtain ⟨-, -, hF, -⟩ := s.cfg.legal_iff.mp hs.legal
      have hsize := length_encoded_le hF hsplit
      simp only [h.encodedBytes hsplit]
      refine (h.setFrames fun i hi => ?_).finish
      rw [toNat_ofNat_of_le_outSize hs.legal hsize] at hi
      exact read_storeBytes_congr hs.memory.outWf ht (by omega) fun hout => by omega

/-- A frame that ENC_RESULT counts stands below OUT_LEN. -/
theorem frameOffset_succ_le_outLen {k : Nat} (h : FramesOk s) (hk : k < s.encResult.frameCount.toNat) :
    frameOffset s.outBuf (k + 1) ≤ s.encResult.outLen.toNat :=
  (frameOffset_mono _ hk).trans_eq h.endsAtOutLen

theorem execRewriteId_agree (h : AgreeButStale s t) (hs : Inv s) (ht : t.outBuf.wf) (k : Nat) (id : Byte) :
    NextAgreeButStale (execRewriteId k id s) (execRewriteId k id t) := by
  rw [execRewriteId, execRewriteId, h.field State.encResult, h.field State.cfg]
  split_ifs with hk
  · exact h.raise _ _
  · have hframe := frameOffset_succ_le_outLen hs.frames (Nat.lt_of_not_ge hk)
    exact (h.setOutBuf fun i => read_rewriteFrame_congr hs.memory.outWf ht hframe hs.frames.outLenLe h.output).finish

theorem execRewriteAll_agree (h : AgreeButStale s t) (hs : Inv s) (ht : t.outBuf.wf) (id : Byte) :
    NextAgreeButStale (execRewriteAll id s) (execRewriteAll id t) := by
  rw [execRewriteAll, execRewriteAll, h.field State.encResult, h.field State.cfg]
  split_ifs with h0
  · exact h.raise _ _
  · have hframes (k : Nat) (hk : k ∈ List.range s.encResult.frameCount.toNat) :
        frameOffset s.outBuf (k + 1) ≤ s.encResult.outLen.toNat :=
      frameOffset_succ_le_outLen hs.frames (List.mem_range.mp hk)
    exact (h.setOutBuf fun i =>
      read_rewriteFrames_congr _ hs.memory.outWf ht hframes hs.frames.outLenLe h.output).finish

/-- What DEC leaves is a function of its input (spec/42_decoder.md R88). -/
theorem execDec_agree (h : AgreeButStale s t) (hs : s.decBuf.wf) (ht : t.decBuf.wf) :
    NextAgreeButStale (execDec s) (execDec t) := by
  intro s' t' hs' ht'
  have hpure := decIsAPureFunctionOfItsInput s t s' t' (h.field State.cfg).symm (h.field State.len).symm h.input hs ht
    hs' ht'
  obtain ⟨m, r, c, st, rfl, -⟩ := execDec_writes hs'
  obtain ⟨m', r', c', st', rfl, -⟩ := execDec_writes ht'
  obtain ⟨rfl, rfl, rfl, hbytes⟩ := hpure
  exact (h.setDecoded hbytes).setStatus _

theorem execReasmAccept_agree (h : AgreeButStale s t) (hs : Inv s) (ht : t.reasmBuf.wf) :
    NextAgreeButStale (execReasmAccept s) (execReasmAccept t) := by
  rw [execReasmAccept, execReasmAccept, h.field State.decHdr]
  exact (h.consumeDecoded.acceptFrame hs.consumeDecoded ht (accLen_add_length_le_reasmSize (s := s) hs)).finish

theorem exec_agree (i : Instr) (h : AgreeButStale s t) (hs : Inv s) (ht : MemoryOk t) :
    NextAgreeButStale (exec i s) (exec i t) := by
  cases i with
  | nop => exact h.finish
  | crcClear => exact execCrcClear_agree h
  | crcUpdate b => exact execCrcUpdate_agree h b
  | crcBuf => exact execCrcBuf_agree h
  | enc tag ack part => exact execEnc_agree h hs ht.outWf tag ack part
  | rewriteId k id => exact execRewriteId_agree h hs ht.outWf k id
  | rewriteAll id => exact execRewriteAll_agree h hs ht.outWf id
  | dec => exact execDec_agree h hs.memory.decWf ht.decWf
  | reasmReset => exact (h.setReasm .zero).clearAccLen.finish
  | reasmAccept => exact execReasmAccept_agree h hs ht.reasmWf

end

/-- Settles O22, command by command: each stores alike below the length that counts its buffer's bytes, and reads nothing
above it. -/
theorem staleBytesNeverReachAResult : Obligations.StaleBytesNeverReachAResult :=
  fun i _ _ s' t' hs ht h => exec_agree i h hs ht.memory s' t'

end Sys2Proof.Machine
end
